-- ==== Sys2Proof/Word.lean ====
section
/-! DEFINITION. The word types of NR-CORE: bus words, command words and binary64 values. -/

namespace Sys2Proof

/-- A 32-bit word: a register of the host window, a binary32 sample, a payload (R10, R45). -/
abbrev Word := BitVec 32

/-- One byte of a register of the window (R62). -/
abbrev Byte := BitVec 8

/-- A 64-bit command word, format `CMD64` (R81). -/
abbrev CmdWord := BitVec 64

/-- A binary64 value, held as its IEEE 754 word (R10). It is a structure and not a synonym of
`BitVec 64`, so that no integer operation is applied to it by accident. The spec has ONE value NaN;
its representative is `0x7FF8000000000000` (log entry 6). -/
structure F64 where
  bits : BitVec 64
  deriving DecidableEq, Repr, Inhabited

end Sys2Proof
end

