-- ==== Sys2Proof/Machine/Float.lean ====
section
/-! DEFINITION. Binary32 and binary64 arithmetic (R10): every operation converts its operands to exact
integers, computes the exact result and rounds ONCE, to nearest, ties to even, with gradual
underflow (I17) and no fused operation. The operations are marked irreducible so that the elaborator does
not unfold arithmetic when it compares states; the kernel evaluates them (`decide +kernel`), and
`unfold` or `rw` with their names opens them. -/

namespace Sys2Proof

/-! ## Values -/

/-- What a binary64 word denotes. `fin neg u` is the number `± u × 2^(-1074)`: every finite binary64
value is a whole number of units `2^(-1074)`. -/
inductive FVal where
  | nan
  | inf (neg : Bool)
  | fin (neg : Bool) (units : Nat)
  deriving DecidableEq, Repr

/-- The magnitude code of +infinity: the bits below the sign. -/
def F64.infMag : Nat := 0x7FF0000000000000

/-- The sign bit. -/
def F64.isNeg (x : F64) : Bool := decide (2 ^ 63 ≤ x.bits.toNat)

/-- The 63 bits below the sign; they order the magnitudes of all values that are not NaN. -/
def F64.mag (x : F64) : Nat := x.bits.toNat % 2 ^ 63

/-- NaN test. -/
def F64.isNaN (x : F64) : Bool := decide (F64.infMag < x.mag)

/-- `isfinite` of R10: false for NaN and for both infinities. -/
def F64.isFinite (x : F64) : Bool := decide (x.mag < F64.infMag)

/-- The word with the given sign and magnitude code. -/
def F64.ofSignMag (neg : Bool) (m : Nat) : F64 := ⟨BitVec.ofNat 64 (if neg then 2 ^ 63 + m else m)⟩

/-- The one NaN (log entry 6). -/
def F64.nan : F64 := ⟨0x7FF8000000000000⟩

/-- An infinity. -/
def F64.inf (neg : Bool) : F64 := F64.ofSignMag neg F64.infMag

/-- +0.0. -/
def F64.zero : F64 := ⟨0⟩

/-- 1.0. -/
def F64.one : F64 := ⟨0x3FF0000000000000⟩

/-- 2.0. -/
def F64.two : F64 := ⟨0x4000000000000000⟩

/-- The value a binary64 word denotes (IEEE 754 layout: sign 63, exponent 62..52, fraction 51..0). -/
@[irreducible] def F64.val (x : F64) : FVal :=
  let e := x.mag >>> 52
  let f := x.mag % 2 ^ 52
  if x.isNaN then .nan
  else if x.isFinite then
    if e = 0 then .fin x.isNeg f else .fin x.isNeg ((2 ^ 52 + f) <<< (e - 1))
  else .inf x.isNeg

/-! ## Rounding -/

/-- The magnitude code of the number `n / d` (`d > 0`) of format units, rounded to nearest, ties to
even, in a format of `p` significand bits: the smallest code step is one unit, and above `2^p` units
the significand keeps `p` bits. A carry out of the significand runs into the exponent by itself. -/
def roundMag (p n d : Nat) : Nat :=
  let k := Nat.log2 (n / d) - (p - 1)
  let u := d <<< k
  let q := n / u
  let r := n % u
  (k <<< (p - 1)) + (if u < 2 * r ∨ (2 * r = u ∧ q % 2 = 1) then q + 1 else q)

/-- The binary64 value nearest to `± (n / d) × 2^(-1074)`, overflowing to infinity (R10). -/
@[irreducible] def F64.round (neg : Bool) (n d : Nat) : F64 :=
  F64.ofSignMag neg (Nat.min (roundMag 53 n d) F64.infMag)

/-- The binary64 value nearest to a whole number. -/
@[irreducible] def F64.ofNat (n : Nat) : F64 := F64.round false (n <<< 1074) 1

/-- The binary64 value nearest to the decimal number `n / 10^k`: how every decimal literal of the
spec is read (log entry 14). -/
@[irreducible] def F64.lit (n k : Nat) : F64 := F64.round false (n <<< 1074) (10 ^ k)

/-! ## Sign operations and comparison -/

/-- The value with the opposite sign; NaN stays the one NaN. -/
@[irreducible] def F64.neg (x : F64) : F64 := if x.isNaN then F64.nan else F64.ofSignMag (!x.isNeg) x.mag

/-- IEEE `abs` (R10). -/
@[irreducible] def F64.abs (x : F64) : F64 := if x.isNaN then F64.nan else F64.ofSignMag false x.mag

/-- `sign` of R10: the sign of the value as +1 or −1. -/
@[irreducible] def F64.sign (x : F64) : F64 := if x.isNeg then F64.neg F64.one else F64.one

/-- The position of a value that is not NaN in the order of the numbers; both zeros are at 0. -/
def F64.rank (x : F64) : Int := if x.isNeg then -(x.mag : Int) else (x.mag : Int)

/-- `x < y`: false when either is NaN (IEEE 754). -/
@[irreducible] def F64.lt (x y : F64) : Bool := !x.isNaN && !y.isNaN && decide (x.rank < y.rank)

/-- `x ≥ y`: false when either is NaN. -/
@[irreducible] def F64.ge (x y : F64) : Bool := !x.isNaN && !y.isNaN && decide (y.rank ≤ x.rank)

/-- `min(a,b)` of R10: `b` if `b < a` else `a`. -/
@[irreducible] def F64.min (a b : F64) : F64 := if F64.lt b a then b else a

/-- `max(a,b)` of R10: `b` if `b > a` else `a`. -/
@[irreducible] def F64.max (a b : F64) : F64 := if F64.lt a b then b else a

/-- `clamp(v,lo,hi) = min(max(v,lo),hi)` of R10. -/
@[irreducible] def F64.clamp (v lo hi : F64) : F64 := F64.min (F64.max v lo) hi

/-! ## Arithmetic -/

/-- The signed number of units. -/
def signedUnits (neg : Bool) (u : Nat) : Int := if neg then -(u : Int) else (u : Int)

/-- Binary64 addition. An exact zero sum is −0 only when both operands are negative zeros. -/
@[irreducible] def F64.add (x y : F64) : F64 :=
  match x.val, y.val with
  | .fin a m, .fin b n =>
    let s := signedUnits a m + signedUnits b n
    if s = 0 then F64.ofSignMag (a && b) 0 else F64.round (decide (s < 0)) s.natAbs 1
  | .inf a, .inf b => if a = b then F64.inf a else F64.nan
  | .inf a, .fin _ _ => F64.inf a
  | .fin _ _, .inf b => F64.inf b
  | .nan, _ => F64.nan
  | _, .nan => F64.nan

/-- Binary64 subtraction. -/
@[irreducible] def F64.sub (x y : F64) : F64 := F64.add x (F64.neg y)

/-- Binary64 multiplication. -/
@[irreducible] def F64.mul (x y : F64) : F64 :=
  match x.val, y.val with
  | .fin a m, .fin b n => F64.round (a != b) (m * n) (2 ^ 1074)
  | .inf a, .inf b => F64.inf (a != b)
  | .inf a, .fin b n => if n = 0 then F64.nan else F64.inf (a != b)
  | .fin a m, .inf b => if m = 0 then F64.nan else F64.inf (a != b)
  | .nan, _ => F64.nan
  | _, .nan => F64.nan

/-- Binary64 division. -/
@[irreducible] def F64.div (x y : F64) : F64 :=
  match x.val, y.val with
  | .fin a m, .fin b n =>
    if n = 0 then (if m = 0 then F64.nan else F64.inf (a != b))
    else F64.round (a != b) (m <<< 1074) n
  | .inf _, .inf _ => F64.nan
  | .inf a, .fin b _ => F64.inf (a != b)
  | .fin a _, .inf b => F64.ofSignMag (a != b) 0
  | .nan, _ => F64.nan
  | _, .nan => F64.nan

/-- The integer square root of `a`, for `a < 4^k`, one binary digit a level. -/
def isqrt : Nat → Nat → Nat
  | 0, _ => 0
  | k + 1, a =>
    let r := 2 * isqrt k (a / 4)
    if (r + 1) * (r + 1) ≤ a then r + 1 else r

/-- The square root of `u` units, in units, correctly rounded. `u × 2^1074` is cut to at most 162
leading bits plus an even number of zeros; `u` has at most 53 significant bits, so nothing but zeros
is cut, and the digit below the root's last says whether the root is exact. -/
def sqrtUnits (u : Nat) : F64 :=
  let t := (u <<< 1074).log2 - 160
  let h := (t + 1) / 2
  let a := (u <<< 1074) >>> (2 * h)
  let r := isqrt 82 a
  let sticky := if r * r = a then 0 else 1
  F64.round false ((2 * r + sticky) <<< h) 2

/-- Binary64 square root (IEEE 754; the root of −0 is −0). -/
@[irreducible] def F64.sqrt (x : F64) : F64 :=
  match x.val with
  | .nan => F64.nan
  | .inf false => x
  | .inf true => F64.nan
  | .fin neg 0 => F64.ofSignMag neg 0
  | .fin true _ => F64.nan
  | .fin false u => sqrtUnits u

/-! ## Conversions between binary32 words and binary64 values -/

/-- The 31 bits of a binary32 word below its sign. -/
def mag32 (w : Word) : Nat := w.toNat % 2 ^ 31

/-- NaN test of a binary32 word, quiet or signalling (R83). -/
def isNaN32 (w : Word) : Bool := decide (0x7F800000 < mag32 w)

/-- The sign bit of a binary32 word. -/
def isNeg32 (w : Word) : Bool := decide (2 ^ 31 ≤ w.toNat)

/-- `f64(w)` of R10: the binary64 value a binary32 word denotes, exactly. The binary32 unit `2^(-149)`
is `2^925` binary64 units. -/
@[irreducible] def f64 (w : Word) : F64 :=
  let e := mag32 w >>> 23
  let f := mag32 w % 2 ^ 23
  if isNaN32 w then F64.nan
  else if e = 255 then F64.inf (isNeg32 w)
  else if e = 0 then F64.round (isNeg32 w) (f <<< 925) 1
  else F64.round (isNeg32 w) ((2 ^ 23 + f) <<< (e - 1 + 925)) 1

/-- The binary32 word with the given sign and magnitude code. -/
def word32 (neg : Bool) (m : Nat) : Word := BitVec.ofNat 32 (if neg then 2 ^ 31 + m else m)

/-- `r32(v)` of R10: the binary32 word nearest to the value, ties to even, overflowing to infinity; NaN
gives `0x7FC00000`. -/
@[irreducible] def r32 (v : F64) : Word :=
  match v.val with
  | .nan => 0x7FC00000
  | .inf neg => word32 neg 0x7F800000
  | .fin neg u => word32 neg (Nat.min (roundMag 24 u (2 ^ 925)) 0x7F800000)

/-- The constant `PI` of R10: the binary64 value nearest to π, 3.141592653589793. -/
def F64.pi : F64 := ⟨0x400921FB54442D18⟩

/-! ## Where the parameter `ARITH` must give a finite result (R7) -/

/-- `[0, 2π)`. The largest binary64 value below 2π is the binary64 product `2.0 × PI`, so that end is included. -/
def onCircle (x : F64) : Bool := F64.ge x F64.zero && F64.ge (F64.mul F64.two F64.pi) x

/-- `[1, 2^1024)`: the finite values from 1.0 up. -/
def lnDomain (x : F64) : Bool := F64.ge x F64.one && x.isFinite

/-- `pow(10, x)` with `|x| ≤ 1`. -/
def powDomain (b x : F64) : Bool := b == F64.ofNat 10 && F64.ge F64.one x.abs

end Sys2Proof
end

