-- ==== Sys2Proof/Syntax.lean ====
section
/-! DEFINITION. The command set of NR-CORE (R88): one constructor per row of the opcode table, and the
enumerations its payloads name (R85). -/

namespace Sys2Proof

/-- Listening profile, codes 0 and 1 (R85). -/
inductive Profile where
  | plain
  | clarity
  deriving DecidableEq, Repr, Inhabited

/-- Noise-estimator method, codes 0 and 1 (R85). -/
inductive NeMethod where
  | legacy
  | advanced
  deriving DecidableEq, Repr, Inhabited

/-- Gain law, codes 0, 1 and 2; code 3 is never stored (R21, R85). -/
inductive GainLaw where
  | linear
  | logarithmic
  | power
  deriving DecidableEq, Repr, Inhabited

/-- A command of the opcode map (R88), with its 32-bit payload as issued. Decode hands every payload
to the command's rule, which itself checks it (R82, R84), so the payload is kept as a word. -/
inductive Instr where
  /-- `NOP`, payload ignored (R230). -/
  | nop (payload : Word)
  /-- `SET.ENABLED b` (R231). -/
  | setEnabled (payload : Word)
  /-- `SET.STRENGTH x` (R232). -/
  | setStrength (payload : Word)
  /-- `RESET`, payload ignored (R236). -/
  | reset (payload : Word)
  /-- `SET.PROFILE p` (R233). -/
  | setProfile (payload : Word)
  /-- `SET.NEMETHOD m` (R234). -/
  | setNemethod (payload : Word)
  /-- `SET.GAINLAW g` (R235). -/
  | setGainlaw (payload : Word)
  /-- `SET.SMOOTHER b` (R237). -/
  | setSmoother (payload : Word)
  /-- `SET.SSHAPE x` (R239). -/
  | setSshape (payload : Word)
  /-- `SET.BSHAPE x` (R240). -/
  | setBshape (payload : Word)
  /-- `SET.GDEPTH x` (R241). -/
  | setGdepth (payload : Word)
  /-- `PROCESS L`, the payload is the block length (R100). -/
  | process (length : Word)
  deriving DecidableEq, Repr

/-- The five payload forms (R83); an enumeration form carries its number of codes. -/
inductive PayloadForm where
  | none
  | bool
  | enum (codes : Nat)
  | f32
  | u32
  deriving DecidableEq, Repr

/-- The payload form of each command (R88). -/
def Instr.form : Instr → PayloadForm
  | .nop _ => .none
  | .setEnabled _ => .bool
  | .setStrength _ => .f32
  | .reset _ => .none
  | .setProfile _ => .enum 2
  | .setNemethod _ => .enum 2
  | .setGainlaw _ => .enum 3
  | .setSmoother _ => .bool
  | .setSshape _ => .f32
  | .setBshape _ => .f32
  | .setGdepth _ => .f32
  | .process _ => .u32

/-- The payload of a command. -/
def Instr.payload : Instr → Word
  | .nop p => p
  | .setEnabled p => p
  | .setStrength p => p
  | .reset p => p
  | .setProfile p => p
  | .setNemethod p => p
  | .setGainlaw p => p
  | .setSmoother p => p
  | .setSshape p => p
  | .setBshape p => p
  | .setGdepth p => p
  | .process p => p

end Sys2Proof
end

