-- ==== Sys2Proof/WellFormed.lean ====
section
/-! DEFINITION. Well-formed commands: those whose payload is a legal value of its form (R83, R85). A
command that is not well formed is an "invalid message" (R84); the machine still has an effect for
it, `BAD_VALUE`. -/

namespace Sys2Proof

/-- Legality of a payload under a form (R83): `NONE` and `U32` take every word, `BOOL` takes 0 and 1, an
enumeration takes its codes, `F32` takes every word that is not a NaN. -/
def PayloadForm.legal (f : PayloadForm) (p : Word) : Bool :=
  match f with
  | .none => true
  | .bool => decide (p.toNat ≤ 1)
  | .enum codes => decide (p.toNat < codes)
  | .f32 => !isNaN32 p
  | .u32 => true

/-- The command is no invalid message (R84). -/
def Instr.wellFormed (i : Instr) : Bool := i.form.legal i.payload

end Sys2Proof
end

