-- ==== Sys2Proof/Decode.lean ====
section
/-! DEFINITION. Decode of a command word (R81, R82, R88, R89), total on all `2^64` words, and the encoder
written from the same table. -/

namespace Sys2Proof

/-- Why a command word is illegal (R82, R89). -/
inductive Illegal where
  /-- `RSV`, bits 55..32, is not zero. -/
  | reservedBits (rsv : BitVec 24)
  /-- The opcode is 0x0B–0x0F or 0x11–0xFF. -/
  | reservedOpcode (op : BitVec 8)
  deriving DecidableEq, Repr

/-- The outcome of decoding a command word. -/
inductive Decoded where
  | instr (i : Instr)
  | illegal (why : Illegal)
  deriving DecidableEq, Repr

/-- `OP = C[63:56]` (R81). -/
def opField (c : CmdWord) : BitVec 8 := c.extractLsb' 56 8

/-- `RSV = C[55:32]` (R81). -/
def rsvField (c : CmdWord) : BitVec 24 := c.extractLsb' 32 24

/-- `PAYLOAD = C[31:0]` (R81). -/
def payloadField (c : CmdWord) : Word := c.extractLsb' 0 32

/-- The opcode map (R88); `none` for a reserved opcode (R89). -/
def opcodeMap (op : Nat) (p : Word) : Option Instr :=
  match op with
  | 0x00 => some (.nop p)
  | 0x01 => some (.setEnabled p)
  | 0x02 => some (.setStrength p)
  | 0x03 => some (.reset p)
  | 0x04 => some (.setProfile p)
  | 0x05 => some (.setNemethod p)
  | 0x06 => some (.setGainlaw p)
  | 0x07 => some (.setSmoother p)
  | 0x08 => some (.setSshape p)
  | 0x09 => some (.setBshape p)
  | 0x0A => some (.setGdepth p)
  | 0x10 => some (.process p)
  | _ => none

/-- Decode of R82: the reserved field is checked before the opcode. -/
def decode (c : CmdWord) : Decoded :=
  if rsvField c ≠ 0 then .illegal (.reservedBits (rsvField c))
  else
    match opcodeMap (opField c).toNat (payloadField c) with
    | some i => .instr i
    | none => .illegal (.reservedOpcode (opField c))

/-- The command word formed from the word written to `CMD_HI` and the latch `CMD_LO` (R63, R81). -/
def commandWord (hi lo : Word) : CmdWord := hi ++ lo

/-- The opcode of a command (R88). -/
def opcode : Instr → BitVec 8
  | .nop _ => 0x00
  | .setEnabled _ => 0x01
  | .setStrength _ => 0x02
  | .reset _ => 0x03
  | .setProfile _ => 0x04
  | .setNemethod _ => 0x05
  | .setGainlaw _ => 0x06
  | .setSmoother _ => 0x07
  | .setSshape _ => 0x08
  | .setBshape _ => 0x09
  | .setGdepth _ => 0x0A
  | .process _ => 0x10

/-- The command word of a command: `OP`, 24 zero bits, payload (R81). -/
def encode (i : Instr) : CmdWord := opcode i ++ (0 : BitVec 24) ++ i.payload

/-- The word of a command that is written to `CMD_HI` (R63, R92). -/
def encodeHi (i : Instr) : Word := (encode i).extractLsb' 32 32

/-- The word of a command that is written to `CMD_LO` (R63, R92). -/
def encodeLo (i : Instr) : Word := (encode i).extractLsb' 0 32

/-- What the decoder reads from the command word whose bits, numbered as the opcode table numbers them,
are `w`; bits from `nbits` up are zero. The word travels as its two 32-bit halves (R63). -/
def decodeTableWord (nbits w : Nat) : Option Instr :=
  let v := w % 2 ^ nbits
  match decode (commandWord (BitVec.ofNat 32 (v / 2 ^ 32)) (BitVec.ofNat 32 v)) with
  | .instr i => some i
  | .illegal _ => none

end Sys2Proof
end

