-- ==== Sys2Proof/Config.lean ====
section
/-! DEFINITION. The parameters an instance has (R7), and the two the spec leaves OPEN (`BASE`, `ARITH`) as
constants without a body. The reference values stand in Machine/Parameters.lean. -/

namespace Sys2Proof

/-- The parameter `ARITH`: the transcendental functions on binary64 (R10), with the constraint of R7: total
functions, finite where the rules use them. A set of functions that violates it is no `Arith`. -/
structure Arith where
  cos : F64 → F64
  sin : F64 → F64
  ln : F64 → F64
  /-- `pow base exponent`. -/
  pow : F64 → F64 → F64
  cos_finite : ∀ x, onCircle x = true → (cos x).isFinite = true
  sin_finite : ∀ x, onCircle x = true → (sin x).isFinite = true
  ln_finite : ∀ x, lnDomain x = true → (ln x).isFinite = true
  pow_finite : ∀ b x, powDomain b x = true → (pow b x).isFinite = true

/-- One equalizer band: bins `lo..hi` inclusive and a level in decibels (R201). -/
structure EqBand where
  lo : Nat
  hi : Nat
  dB : F64
  deriving DecidableEq, Repr

/-- The implementation parameters of R7, in the order of its table. `NB` is derived. DESIGN CHOICE (log entry 25):
the number types. R7 gives none; counts, bins and `BASE` are natural numbers, `FS` is a rational number,
`HOLD_SAMPLES` a 32-bit word (its constraint), and every level, coefficient and threshold a binary64
value. -/
structure Params where
  /-- `N`, frame length. -/
  n : Nat
  /-- `H`, hop. -/
  h : Nat
  vadLo : Nat
  vadHi : Nat
  eps : F64
  sigInit : F64
  noiseInit : F64
  lminInit : F64
  subminInit : F64
  sflatInit : F64
  /-- `D`, number of subwindows. -/
  d : Nat
  /-- `V`, frames per subwindow. -/
  v : Nat
  osLo : F64
  osHi : F64
  makeupMax : F64
  baseThr : F64
  thrK : F64
  holdSamples : Profile → Word
  attack : F64
  release : Profile → F64
  minGain : Profile → F64
  eqBands : Profile → List EqBand
  /-- `FS`, hertz, a rational number (log entry 25); used only to place equalizer bands. -/
  fs : Rat
  telemPeriod : Nat
  inDepth : Nat
  outDepth : Nat
  /-- `BASE`, bus address of the register window. -/
  base : Nat
  arith : Arith

/-- `NB = N/2 + 1`, the number of bins (R7). -/
def Params.nb (P : Params) : Nat := P.n / 2 + 1

namespace Config

/-- FREE VALUE: the platform's choice of 4 KiB page for the register window (`BASE` is OPEN, D3, D56). -/
opaque basePage : Nat

/-- FREE VALUE: `ARITH.cos` (OPEN, D2, D56). -/
opaque freeCos : F64 → F64

/-- FREE VALUE: `ARITH.sin` (OPEN, D2, D56). -/
opaque freeSin : F64 → F64

/-- FREE VALUE: `ARITH.ln` (OPEN, D2, D56). -/
opaque freeLn : F64 → F64

/-- FREE VALUE: `ARITH.pow` (OPEN, D2, D56). -/
opaque freePow : F64 → F64 → F64

end Config

end Sys2Proof
end

