-- ==== Sys2Proof/Machine/Parameters.lean ====
section
/-! DEFINITION. The constraints on the parameters of an instance (R7) and the reference instance, which is
the one this model is. -/

namespace Sys2Proof

/-- Both ends included: `lo ≤ x ≤ hi`, false for NaN. -/
def F64.within (x lo hi : F64) : Bool := F64.ge x lo && F64.ge hi x

/-- `k` is a power of two. -/
def isPow2 (k : Nat) : Bool := decide (0 < k) && decide (2 ^ k.log2 = k)

/-- The constraint column of R7 for one profile's parameters. -/
def Params.profileValid (P : Params) (p : Profile) : Bool :=
  F64.within (P.release p) F64.zero F64.one && F64.lt F64.zero (P.release p)
    && F64.within (P.minGain p) F64.zero F64.one
    && (P.eqBands p).all (fun b => decide (b.lo ≤ b.hi) && decide (b.hi ≤ P.n / 2))

/-- The constraint column of R7, but for `ARITH`'s, which the type `Arith` carries: a `Params` with functions that
violate it cannot be written. `instantiate` refuses parameters that are not valid (R7). -/
def Params.valid (P : Params) : Bool :=
  isPow2 P.n && decide (8 ≤ P.n) && isPow2 P.h && decide (2 * P.h ≤ P.n)
    && decide (1 ≤ P.vadLo) && decide (P.vadLo ≤ P.vadHi) && decide (P.vadHi ≤ P.n / 2)
    && F64.lt F64.zero P.eps && P.eps.isFinite -- finite: "small positive epsilon", R41 (DEDUCED)
    && F64.ge P.sigInit P.eps && F64.ge P.noiseInit P.eps && F64.ge P.lminInit P.eps
    && F64.ge P.subminInit P.eps && F64.within P.sflatInit F64.zero F64.one
    && decide (1 ≤ P.d) && decide (P.d ≤ 255) && decide (1 ≤ P.v) && decide (P.v ≤ 255)
    && F64.lt F64.zero P.osLo && F64.ge P.osHi P.osLo && F64.ge P.makeupMax F64.one
    && F64.lt F64.zero P.baseThr && F64.lt P.baseThr F64.one
    && F64.ge P.thrK F64.zero && F64.lt P.thrK P.baseThr
    && F64.lt F64.zero P.attack && F64.ge F64.one P.attack
    && P.profileValid .plain && P.profileValid .clarity
    && decide (0 < P.fs) && decide (1 ≤ P.telemPeriod)
    && decide (1 ≤ P.inDepth) && decide (P.inDepth < 2 ^ 32)
    && decide (1 ≤ P.outDepth) && decide (P.outDepth < 2 ^ 32)
    && decide (P.base % 4096 = 0)

namespace Config

/-- `BASE` (R7, R67): OPEN, 4 KiB aligned. -/
def base : Nat := 4096 * basePage

/-- `r` as a result on an argument that R7 constrains to a finite result: every finite `r` is itself, and
a free value that breaks the constraint does not occur (log entry 4). -/
def finiteOn (constrained : Bool) (r : F64) : F64 :=
  if constrained && !r.isFinite then F64.zero else r

/-- What `finiteOn` answers on a constrained argument is finite. -/
theorem finiteOn_isFinite {constrained : Bool} (h : constrained = true) (r : F64) :
    (finiteOn constrained r).isFinite = true := by
  unfold finiteOn
  cases hr : r.isFinite
  · simp only [h, Bool.not_false, Bool.and_true, if_true]
    rfl
  · simpa using hr

/-- The model's `ARITH`: any four total functions whose results are finite for `cos` and `sin` of
`[0, 2π)`, `ln` of `[1, 2^1024)` and `pow(10, x)` with `|x| ≤ 1` (R7). -/
def arith : Arith where
  cos x := finiteOn (onCircle x) (freeCos x)
  sin x := finiteOn (onCircle x) (freeSin x)
  ln x := finiteOn (lnDomain x) (freeLn x)
  pow b x := finiteOn (powDomain b x) (freePow b x)
  cos_finite _ h := finiteOn_isFinite h _
  sin_finite _ h := finiteOn_isFinite h _
  ln_finite _ h := finiteOn_isFinite h _
  pow_finite _ _ h := finiteOn_isFinite h _

/-- `N` of the reference instance (R7). -/
def frameLength : Nat := 512

/-- `FS` of the reference instance, hertz (R7). -/
def sampleRate : Rat := 12000

/-- The bin position of a frequency in hertz, `f × N / FS` (R201). -/
def binPosition (n : Nat) (fs : Rat) (f : Nat) : Rat := ((f * n : Nat) : Rat) / fs

/-- The first bin of a band that starts at `f` hertz: `ceil(f × N / FS)` (R201). -/
def firstBin (n : Nat) (fs : Rat) (f : Nat) : Nat := (binPosition n fs f).ceil.toNat

/-- The last bin of a band that ends at `f` hertz: `floor(f × N / FS)` (R201). -/
def lastBin (n : Nat) (fs : Rat) (f : Nat) : Nat := (binPosition n fs f).floor.toNat

/-- A band of a range of frequencies in hertz. -/
def band (n : Nat) (fs : Rat) (lo hi : Nat) (dB : F64) : EqBand := ⟨firstBin n fs lo, lastBin n fs hi, dB⟩

/-- The document's bands (R201), placed at a frame length and a sample rate. -/
def bandsAt (n : Nat) (fs : Rat) : Profile → List EqBand
  | .plain =>
    [⟨0, 1, F64.lit 3 0⟩, band n fs 200 500 (F64.lit 12 1), band n fs 2500 3500 (F64.neg (F64.lit 2 0))]
  | .clarity => [band n fs 300 2000 (F64.lit 6 0)]

/-- The reference `EQ_BANDS` (R201), placed at `N = 512` and `FS = 12000`. -/
def eqBands : Profile → List EqBand := bandsAt frameLength sampleRate

/-- `EPS`, 1e-10 to the nearest binary64 value (R7, D25). -/
def eps : F64 := F64.lit 1 10

/-- The instance this model is: the reference column of R7, with `BASE` and `ARITH` open. -/
def params : Params where
  n := frameLength
  h := 128
  vadLo := 3
  vadHi := 79
  eps := eps
  sigInit := eps
  noiseInit := eps
  lminInit := eps
  subminInit := eps
  sflatInit := F64.zero
  d := 8
  v := 12
  osLo := F64.lit 1 0
  osHi := F64.lit 2 0
  makeupMax := F64.lit 15 1
  baseThr := F64.lit 35 2
  thrK := F64.lit 5 2
  holdSamples
    | .plain => 9600
    | .clarity => 4800
  attack := F64.lit 1 2
  release
    | .plain => F64.lit 2 4
    | .clarity => F64.lit 5 4
  minGain
    | .plain => F64.lit 25 2
    | .clarity => F64.lit 10 2
  eqBands := eqBands
  fs := sampleRate
  telemPeriod := 4
  inDepth := 4096
  outDepth := 4096
  base := base
  arith := arith

end Config

end Sys2Proof
end

