-- ==== Sys2Proof/Machine/State.lean ====
section
/-! DEFINITION. The state of NR-CORE (file 10_state.md), its value after power-on reset (R300), and the
reasons a step can stop. -/

namespace Sys2Proof.Machine

/-! ## Host side of the bus -/

/-- Where a bus access lands: at a byte offset of the 4 KiB window, or outside the window (R67). -/
inductive BusTarget where
  | window (offset : BitVec 12)
  | outside
  deriving DecidableEq, Repr

/-- One thing the environment lets happen, in one indivisible step (R12, R65, R70, R300). -/
inductive Event where
  /-- `MemRead(addr, size)` by the host (R260). -/
  | read (target : BusTarget) (size : Nat)
  /-- `MemWrite(addr, size, value)` by the host (R261). -/
  | write (target : BusTarget) (size : Nat) (value : Word)
  /-- The engine takes its turn (R102); no effect when it has no work (R12). -/
  | engine
  /-- The power-on reset input is asserted (R300). -/
  | powerOn
  deriving DecidableEq, Repr

/-! ## Configuration -/

/-- The active configuration `CFG` (R21). -/
structure Cfg where
  /-- `CFG_ENABLED`: false is bypass. -/
  enabled : Bool
  /-- `CFG_STRENGTH`, binary32 in [0, 2]. -/
  strength : Word
  profile : Profile
  neMethod : NeMethod
  gainLaw : GainLaw
  smoother : Bool
  /-- `CFG_SSHAPE`, binary32 in [−2, 2]. -/
  sshape : Word
  /-- `CFG_BSHAPE`, binary32 in [0, 1]. -/
  bshape : Word
  /-- `CFG_GDEPTH`, binary32 in [0, 1]. -/
  gdepth : Word
  deriving DecidableEq, Repr

/-- The POR column of R21. -/
def Cfg.por : Cfg where
  enabled := false
  strength := 0x3F800000
  profile := .plain
  neMethod := .legacy
  gainLaw := .power
  smoother := true
  sshape := 0x00000000
  bshape := 0x3F000000
  gdepth := 0x00000000

/-- One field of the pending shadow: `PEND_F` and `PEND_F.V` (R23). -/
structure Slot (α : Type) where
  value : α
  valid : Bool
  deriving DecidableEq, Repr

/-- The pending shadow `PEND` (R23). -/
structure Pend where
  enabled : Slot Bool
  strength : Slot Word
  profile : Slot Profile
  neMethod : Slot NeMethod
  gainLaw : Slot GainLaw
  smoother : Slot Bool
  sshape : Slot Word
  bshape : Slot Word
  gdepth : Slot Word
  /-- `RESET_PENDING`. -/
  resetPending : Bool
  deriving DecidableEq, Repr

/-- POR of the shadow: every valid bit 0, every value the POR value of its field (R23). -/
def Pend.por : Pend where
  enabled := ⟨Cfg.por.enabled, false⟩
  strength := ⟨Cfg.por.strength, false⟩
  profile := ⟨Cfg.por.profile, false⟩
  neMethod := ⟨Cfg.por.neMethod, false⟩
  gainLaw := ⟨Cfg.por.gainLaw, false⟩
  smoother := ⟨Cfg.por.smoother, false⟩
  sshape := ⟨Cfg.por.sshape, false⟩
  bshape := ⟨Cfg.por.bshape, false⟩
  gdepth := ⟨Cfg.por.gdepth, false⟩
  resetPending := false

/-! ## Internal memories -/

/-- The internal memories that are written (R60(2), R61): the rings of R26 and R27 and the per-bin arrays of
R30. Each is a list of the fixed length R61 gives (`Memory.wf`). -/
structure Memory where
  /-- `IN`, 2N raw input words (R26). -/
  inRing : List Word
  /-- `OUT`, 2N binary64 accumulator cells (R27). -/
  outRing : List F64
  /-- `S[k]`. -/
  sig : List F64
  /-- `NOISE[k]`. -/
  noise : List F64
  /-- `LMIN[k]`. -/
  lmin : List F64
  /-- `SUBMIN[d][k]`. -/
  submin : List (List F64)
  /-- `PREV_GAIN[k]`. -/
  prevGain : List F64
  /-- `FSG[k]`. -/
  fsg : List F64
  deriving DecidableEq, Repr

/-- The one form the memories of an instance have: the sizes of R61, never resized. -/
abbrev Memory.wf (P : Params) (m : Memory) : Prop :=
  m.inRing.length = 2 * P.n ∧ m.outRing.length = 2 * P.n ∧ m.sig.length = P.nb ∧ m.noise.length = P.nb
    ∧ m.lmin.length = P.nb ∧ m.submin.length = P.d ∧ (∀ row ∈ m.submin, row.length = P.nb)
    ∧ m.prevGain.length = P.nb ∧ m.fsg.length = P.nb

/-- The memories after power-on reset (R26, R27, R30). -/
def Memory.por (P : Params) : Memory where
  inRing := List.replicate (2 * P.n) 0
  outRing := List.replicate (2 * P.n) F64.zero
  sig := List.replicate P.nb P.sigInit
  noise := List.replicate P.nb P.noiseInit
  lmin := List.replicate P.nb P.lminInit
  submin := List.replicate P.d (List.replicate P.nb P.subminInit)
  prevGain := List.replicate P.nb F64.one
  fsg := List.replicate P.nb F64.one

/-! ## The machine -/

/-- Every piece of state of 10_state.md, and the two fields of the model's own (`agenda`, `busData`). -/
structure State where
  /-- `CFG` (R21). -/
  cfg : Cfg
  /-- `PEND` (R23). -/
  pend : Pend
  /-- `IDX`, 0..2N−1 (R24). -/
  idx : Nat
  /-- `WARM`, 0..N (R24). -/
  warm : Nat
  /-- `HOP_PHASE`, 0..H−1 (R24). -/
  hopPhase : Nat
  /-- The rings and per-bin arrays (R26, R27, R30). -/
  mem : Memory
  /-- `FRAME_CNT`, 0..499 (R31). -/
  frameCnt : Nat
  /-- `SUB_PTR`, 0..D−1 (R31). -/
  subPtr : Nat
  /-- `SUB_CNT`, 0..V−1 (R31). -/
  subCnt : Nat
  /-- `RAW_FLAT` (R32). -/
  rawFlat : F64
  /-- `SFLAT` (R32). -/
  sflat : F64
  /-- `GATE_OPEN` (R33). -/
  gateOpen : Bool
  /-- `HOLD`, unsigned 32 bits (R33). -/
  hold : Word
  /-- `GATE_MULT` (R33). -/
  gateMult : F64
  /-- `IN_FIFO`, oldest first (R35). -/
  inFifo : List Word
  /-- `OUT_FIFO`, oldest first (R35). -/
  outFifo : List Word
  /-- `CMD_LO` (R35, R50). -/
  cmdLo : Word
  /-- `BUSY` (R35). -/
  busy : Bool
  /-- `JOB_L`, 32 bits (R35). -/
  jobL : Word
  /-- `JOB_X[0..JOB_L−1]` (R35). -/
  jobX : List Word
  /-- `ERR` (R36, R49). -/
  err : Word
  /-- `TELEM_GR`, binary32 word (R37). -/
  telemGr : Word
  /-- `TELEM_FLAT`, binary32 word (R37). -/
  telemFlat : Word
  /-- `TELEM_SEQ`, wraps modulo 2^32 (R37). -/
  telemSeq : Word
  /-- `TELEM_PHASE`, 0..TELEM_PERIOD−1 (R37). -/
  telemPhase : Nat
  /-- MODEL'S OWN: what the environment does next, in order (log entry 1). -/
  agenda : List Event
  /-- MODEL'S OWN: the word the last host read returned (log entry 2). -/
  busData : Word
  deriving DecidableEq, Repr

/-- Why a step stops with a fault. There is none: NR-CORE never traps and no condition stops it (R280).
The type has no constructor, so no step of the model can answer `fault`; that is safe, because it
says nothing about a state the block reaches. -/
inductive Fault
  deriving DecidableEq, Repr

/-- Why a step is refused. -/
inductive Refusal where
  /-- An instruction without a meaning; raised by no arm of `exec`. Safe: the model says nothing. -/
  | notModelled (mnemonic : String)
  /-- A bus access outside `[BASE, BASE + 0x1000)`, raised by the bus (`busAccess` in Machine/Bus.lean):
  not NR-CORE's and outside the model (R67, I6). Safe: the model says nothing of it. -/
  | outsideWindow
  /-- Parameters that violate a constraint of R7, raised by `instantiate` (Machine/Instance.lean) and by no step.
  Safe: there is no such machine. -/
  | invalidParameters
  deriving DecidableEq, Repr

/-- The state after power-on reset of an instance (R300), with nothing on the agenda. -/
def State.por (P : Params) : State where
  cfg := Cfg.por
  pend := Pend.por
  idx := 0
  warm := 0
  hopPhase := 0
  mem := Memory.por P
  frameCnt := 0
  subPtr := 0
  subCnt := 0
  rawFlat := F64.zero
  sflat := P.sflatInit
  gateOpen := true
  hold := P.holdSamples Cfg.por.profile
  gateMult := F64.one
  inFifo := []
  outFifo := []
  cmdLo := 0
  busy := false
  jobL := 0
  jobX := []
  err := 0
  telemGr := 0
  telemFlat := 0
  telemSeq := 0
  telemPhase := 0
  agenda := []
  busData := 0

/-- The machine right after reset: power-on reset of the reference instance (R300). -/
def State.reset : State := State.por Config.params

end Sys2Proof.Machine
end

