-- ==== Sys2Proof/Machine/Flags.lean ====
section
/-! DEFINITION. The flags: the sticky error bits of `ERR` (R49, R281) and the words that show the one-bit state to
the host: `STATUS`, `ACTIVE_CFG`, `PENDING` and `GEOMETRY` (R40, R47, R48, R53, R54). -/

namespace Sys2Proof.Machine

/-- The error conditions (R281). -/
inductive ErrCause where
  | illegalCmd
  | badValue
  | procReject
  | busyCmd
  | inOvf
  | outUnf
  | nonfiniteIn
  | stateGuard
  | badAccess
  deriving DecidableEq, Repr

/-- The cause code of a condition, which is its bit number in `ERR` (R49, R281). -/
def errCode : ErrCause → Nat
  | .illegalCmd => 0
  | .badValue => 1
  | .procReject => 2
  | .busyCmd => 3
  | .inOvf => 4
  | .outUnf => 5
  | .nonfiniteIn => 6
  | .stateGuard => 7
  | .badAccess => 8

/-- The word with only the bit of a cause. -/
def errBit (c : ErrCause) : Word := BitVec.ofNat 32 (2 ^ errCode c)

/-- The nine bits of `ERR` that exist; bits 31..9 are reserved and read 0 (R49). -/
def errMask : Word := 0x000001FF

/-- Write-1-to-clear of `ERR` (R261, R262). -/
def errClear (err v : Word) : Word := err &&& ~~~(v &&& errMask)

/-- Bit `n` of a word, set when `b`. -/
def flagBit (n : Nat) (b : Bool) : Word := if b then BitVec.ofNat 32 (2 ^ n) else 0

/-- `STATUS.PRIMED`: `WARM = N` (R48). -/
def primed (P : Params) (s : State) : Bool := decide (s.warm = P.n)

/-- `STATUS` (R48). -/
def statusWord (P : Params) (s : State) : Word :=
  flagBit 0 s.busy ||| flagBit 1 (primed P s) ||| flagBit 2 s.gateOpen

/-- Code of a profile (R85). -/
def profileCode : Profile → Nat
  | .plain => 0
  | .clarity => 1

/-- Code of a noise-estimator method (R85). -/
def neMethodCode : NeMethod → Nat
  | .legacy => 0
  | .advanced => 1

/-- Code of a gain law (R85). -/
def gainLawCode : GainLaw → Nat
  | .linear => 0
  | .logarithmic => 1
  | .power => 2

/-- `ACTIVE_CFG` (R53). -/
def activeCfgWord (c : Cfg) : Word :=
  flagBit 0 c.enabled ||| BitVec.ofNat 32 (profileCode c.profile * 2 ^ 1)
    ||| BitVec.ofNat 32 (neMethodCode c.neMethod * 2 ^ 2)
    ||| BitVec.ofNat 32 (gainLawCode c.gainLaw * 2 ^ 3) ||| flagBit 5 c.smoother

/-- `PENDING` (R54): bit n is the pending bit of opcode n. -/
def pendingWord (p : Pend) : Word :=
  flagBit 1 p.enabled.valid ||| flagBit 2 p.strength.valid ||| flagBit 3 p.resetPending
    ||| flagBit 4 p.profile.valid ||| flagBit 5 p.neMethod.valid ||| flagBit 6 p.gainLaw.valid
    ||| flagBit 7 p.smoother.valid ||| flagBit 8 p.sshape.valid ||| flagBit 9 p.bshape.valid
    ||| flagBit 10 p.gdepth.valid

/-- `GEOMETRY` (R47): `V`, `D`, log2 H, log2 N in its four bytes, most significant first. -/
def geometryWord (P : Params) : Word :=
  BitVec.ofNat 8 P.v ++ BitVec.ofNat 8 P.d ++ BitVec.ofNat 8 P.h.log2 ++ BitVec.ofNat 8 P.n.log2

/-- `ID` (R46). -/
def idWord : Word := 0x4E520001

/-- Byte `i` of a register, as the little-endian window lays it out: byte 0 at the lowest address is bits
7..0 (R62). -/
def registerByte (w : Word) (i : Fin 4) : Byte := w.extractLsb' (8 * i.val) 8

/-- The gate states of the document, read off `GATE_OPEN`, `HOLD` and whether the last block's score was
below threshold (R34). -/
inductive GateState where
  | opened
  | holding
  | closed
  deriving DecidableEq, Repr

/-- The gate state of R34; `none` where R34 names none (open, score high, `HOLD` 0), which no block leaves
behind (R211). -/
def gateState (open' : Bool) (hold : Word) (scoreBelow : Bool) : Option GateState :=
  if open' = false then some .closed
  else if scoreBelow then some .opened
  else if 0 < hold.toNat then some .holding
  else none

end Sys2Proof.Machine
end

