-- ==== Sys2Proof/Machine/Operands.lean ====
section
/-! DEFINITION. The payload forms of the commands (R83, R85): what a payload denotes, and `none` where it makes
the command an invalid message (R84). -/

namespace Sys2Proof.Machine

/-- Form `BOOL`: 0 is false, 1 is true. -/
def boolOperand (p : Word) : Option Bool :=
  if p = 0 then some false else if p = 1 then some true else none

/-- Form `ENUM` of `SET.PROFILE` (R85). -/
def profileOperand (p : Word) : Option Profile :=
  if p = 0 then some .plain else if p = 1 then some .clarity else none

/-- Form `ENUM` of `SET.NEMETHOD` (R85). -/
def neMethodOperand (p : Word) : Option NeMethod :=
  if p = 0 then some .legacy else if p = 1 then some .advanced else none

/-- Form `ENUM` of `SET.GAINLAW` (R85). -/
def gainLawOperand (p : Word) : Option GainLaw :=
  if p = 0 then some .linear
  else if p = 1 then some .logarithmic
  else if p = 2 then some .power
  else none

/-- Form `F32` with the command's range: NaN is invalid, every other word is clamped into `[lo, hi]` and
stored as binary32 (R83, R232, R239–R241). -/
def f32Operand (lo hi : F64) (p : Word) : Option Word :=
  if isNaN32 p then none else some (r32 (F64.clamp (f64 p) lo hi))

/-- Form `U32`: an unsigned integer. -/
def u32Operand (p : Word) : Nat := p.toNat

/-- Range of `SET.STRENGTH` (R232). -/
def strengthOperand (p : Word) : Option Word := f32Operand F64.zero F64.two p

/-- Range of `SET.SSHAPE` (R239). -/
def sshapeOperand (p : Word) : Option Word := f32Operand (F64.neg F64.two) F64.two p

/-- Range of `SET.BSHAPE` (R240). -/
def bshapeOperand (p : Word) : Option Word := f32Operand F64.zero F64.one p

/-- Range of `SET.GDEPTH` (R241). -/
def gdepthOperand (p : Word) : Option Word := f32Operand F64.zero F64.one p

end Sys2Proof.Machine
end

