-- ==== Sys2Proof/Machine/Ops.lean ====
section
/-! DEFINITION. The named operations over the state that the rules share: recording an error, reading and writing
the internal memories and the queues, the resets, and the drain of the pending shadow. -/

namespace Sys2Proof.Machine

/-! ## Errors

NR-CORE takes no exceptions: there is no saved state, no handler and no return (R280). What an abnormal
condition does besides its rule's own effect is this one operation. -/

/-- `seterr(X)` (R281): set the sticky bit of the cause. -/
def seterr (c : ErrCause) (s : State) : State := { s with err := s.err ||| errBit c }

/-- `seterr` when a condition occurred. -/
def seterrIf (b : Bool) (c : ErrCause) (s : State) : State := if b then seterr c s else s

/-! ## Internal memories (R60(2)) -/

/-- Element `k` of a per-bin array or of a table. No rule indexes outside the array (R69); an index past the
end would read +0.0 (log entry 12). -/
def elem (l : List F64) (k : Nat) : F64 := l.getD k F64.zero

/-- The word of the input ring at an index, taken modulo 2N (R68). -/
def inRead (P : Params) (s : State) (i : Nat) : Word := s.mem.inRing.getD (i % (2 * P.n)) 0

/-- Write the input ring at an index, taken modulo 2N (R68). -/
def inWrite (P : Params) (i : Nat) (w : Word) (s : State) : State :=
  { s with mem := { s.mem with inRing := s.mem.inRing.set (i % (2 * P.n)) w } }

/-- The cell of the output ring at an index, taken modulo 2N (R68). -/
def outRead (P : Params) (s : State) (i : Nat) : F64 := elem s.mem.outRing (i % (2 * P.n))

/-- Write the output ring at an index, taken modulo 2N (R68). -/
def outWrite (P : Params) (i : Nat) (v : F64) (s : State) : State :=
  { s with mem := { s.mem with outRing := s.mem.outRing.set (i % (2 * P.n)) v } }

/-- Element `SUBMIN[d][k]`. -/
def subminAt (rows : List (List F64)) (d k : Nat) : F64 := elem (rows.getD d []) k

/-- An array of `nb` elements, element `k` computed from `k`. -/
def perBin (nb : Nat) (f : Nat → F64) : List F64 := (List.range nb).map f

/-! ## Queues (R35) -/

/-- `push_in` (R264): a word pushed on a full queue is dropped with `IN_OVF`. -/
def pushIn (P : Params) (v : Word) (s : State) : State :=
  if P.inDepth ≤ s.inFifo.length then seterr .inOvf s
  else { s with inFifo := s.inFifo ++ [v] }

/-- `pop_out` (R265): the oldest output word, or 0 with `OUT_UNF` on an empty queue. -/
def popOut (s : State) : Word × State :=
  match s.outFifo with
  | [] => (0, seterr .outUnf s)
  | w :: rest => (w, { s with outFifo := rest })

/-! ## Resets -/

/-- The memories after `reset_adaptive`: the per-bin arrays at their starting constants, the rings kept
(R302). -/
def Memory.resetAdaptive (P : Params) (m : Memory) : Memory :=
  { Memory.por P with inRing := m.inRing, outRing := m.outRing }

/-- `reset_adaptive` (R302). -/
def resetAdaptive (P : Params) (s : State) : State :=
  { s with
    mem := s.mem.resetAdaptive P
    frameCnt := 0
    subPtr := 0
    subCnt := 0
    rawFlat := F64.zero
    sflat := P.sflatInit
    gateOpen := true
    hold := P.holdSamples s.cfg.profile
    gateMult := F64.one }

/-- `power_on_reset` (R300): every piece of the block's state at its POR value; what the environment does
next, and the last word it read, are not the block's. -/
def powerOnReset (P : Params) (s : State) : State :=
  { State.por P with agenda := s.agenda, busData := s.busData }

/-! ## Drain of the pending shadow (R238) -/

/-- The value a field has after the drain: the pending value if its valid bit is 1. -/
def Slot.drain {α : Type} (p : Slot α) (active : α) : α := if p.valid then p.value else active

/-- The slot after the drain: the value is kept, the valid bit is 0. -/
def Slot.clear {α : Type} (p : Slot α) : Slot α := { p with valid := false }

/-- The configuration after the drain of the batch's fields. -/
def drainCfg (p : Pend) (c : Cfg) : Cfg where
  enabled := p.enabled.drain c.enabled
  strength := p.strength.drain c.strength
  profile := p.profile.drain c.profile
  neMethod := p.neMethod.drain c.neMethod
  gainLaw := p.gainLaw.drain c.gainLaw
  smoother := p.smoother.drain c.smoother
  sshape := p.sshape.drain c.sshape
  bshape := p.bshape.drain c.bshape
  gdepth := p.gdepth.drain c.gdepth

/-- The shadow with every valid bit and `RESET_PENDING` cleared. -/
def Pend.clear (p : Pend) : Pend where
  enabled := p.enabled.clear
  strength := p.strength.clear
  profile := p.profile.clear
  neMethod := p.neMethod.clear
  gainLaw := p.gainLaw.clear
  smoother := p.smoother.clear
  sshape := p.sshape.clear
  bshape := p.bshape.clear
  gdepth := p.gdepth.clear
  resetPending := false

/-- `drain_pending` (R238): the batch's fields first, then its reset, which so sees the new profile. -/
def drainPending (P : Params) (s : State) : State :=
  let s1 := { s with cfg := drainCfg s.pend s.cfg, pend := s.pend.clear }
  if s.pend.resetPending then resetAdaptive P s1 else s1

/-! ## Derived strength (R13) -/

/-- `s = clamp(CFG_STRENGTH / 2.0, 0.0, 1.0)` (R13). -/
def effect (c : Cfg) : F64 := F64.clamp (F64.div (f64 c.strength) F64.two) F64.zero F64.one

end Sys2Proof.Machine
end

