-- ==== Sys2Proof/Machine/Commands.lean ====
section
/-! DEFINITION. The configuration commands (file 48): what each does when it is issued. They write only the
pending shadow and `ERR`; the drain at the next PROCESS accept makes them active. -/

namespace Sys2Proof.Machine

/-- A state after which the machine goes on. -/
abbrev Result := Host.Outcome State Fault Refusal

/-- A slot that holds a value just issued. -/
def Slot.filled {α : Type} (v : α) : Slot α := ⟨v, true⟩

/-- Issue of a message with a payload check (R84): an invalid message does `seterr(BAD_VALUE)` and nothing
else, a valid one changes the shadow. -/
def issueMessage {α : Type} (operand : Option α) (put : α → Pend → Pend) (s : State) : State :=
  match operand with
  | none => seterr .badValue s
  | some v => { s with pend := put v s.pend }

/-- `NOP` (R230): nothing. -/
def execNop (_payload : Word) (s : State) : Result := .next s

/-- `SET.ENABLED b` (R231). -/
def execSetEnabled (payload : Word) (s : State) : Result :=
  .next (issueMessage (boolOperand payload) (fun v p => { p with enabled := Slot.filled v }) s)

/-- `SET.STRENGTH x` (R232). -/
def execSetStrength (payload : Word) (s : State) : Result :=
  .next (issueMessage (strengthOperand payload) (fun v p => { p with strength := Slot.filled v }) s)

/-- `SET.PROFILE p` (R233). -/
def execSetProfile (payload : Word) (s : State) : Result :=
  .next (issueMessage (profileOperand payload) (fun v p => { p with profile := Slot.filled v }) s)

/-- `SET.NEMETHOD m` (R234). -/
def execSetNemethod (payload : Word) (s : State) : Result :=
  .next (issueMessage (neMethodOperand payload) (fun v p => { p with neMethod := Slot.filled v }) s)

/-- `SET.GAINLAW g` (R235). -/
def execSetGainlaw (payload : Word) (s : State) : Result :=
  .next (issueMessage (gainLawOperand payload) (fun v p => { p with gainLaw := Slot.filled v }) s)

/-- `RESET` (R236): the reset itself happens at the next accept (R238, R302). -/
def execReset (_payload : Word) (s : State) : Result :=
  .next { s with pend := { s.pend with resetPending := true } }

/-- `SET.SMOOTHER b` (R237). -/
def execSetSmoother (payload : Word) (s : State) : Result :=
  .next (issueMessage (boolOperand payload) (fun v p => { p with smoother := Slot.filled v }) s)

/-- `SET.SSHAPE x` (R239). -/
def execSetSshape (payload : Word) (s : State) : Result :=
  .next (issueMessage (sshapeOperand payload) (fun v p => { p with sshape := Slot.filled v }) s)

/-- `SET.BSHAPE x` (R240). -/
def execSetBshape (payload : Word) (s : State) : Result :=
  .next (issueMessage (bshapeOperand payload) (fun v p => { p with bshape := Slot.filled v }) s)

/-- `SET.GDEPTH x` (R241). -/
def execSetGdepth (payload : Word) (s : State) : Result :=
  .next (issueMessage (gdepthOperand payload) (fun v p => { p with gdepth := Slot.filled v }) s)

end Sys2Proof.Machine
end

