-- ==== Sys2Proof/Machine/Process.lean ====
section
/-! DEFINITION. The PROCESS command: its checks and its accept (R100, R101). The block it starts is the engine's
step (Machine/Scheduler.lean). -/

namespace Sys2Proof.Machine

/-- Whether the queues have room for a block of `l` samples: `L ≤ |IN_FIFO|` and
`L ≤ OUT_DEPTH − |OUT_FIFO|` (R100, R314). -/
def queuesReady (P : Params) (l : Nat) (s : State) : Bool :=
  decide (l ≤ s.inFifo.length) && decide (l + s.outFifo.length ≤ P.outDepth)

/-- `accept(L)` (R101): drain, take the first L input words, set `BUSY`. -/
def accept (P : Params) (l : Word) (s : State) : State :=
  let s1 := drainPending P s
  { s1 with
    jobL := l
    jobX := s1.inFifo.take l.toNat
    inFifo := s1.inFifo.drop l.toNat
    busy := true }

/-- The issue of `PROCESS L` for an instance (R100): busy is checked before queue space (R282). -/
def processCommand (P : Params) (l : Word) (s : State) : State :=
  if s.busy then seterr .busyCmd s
  else if queuesReady P (u32Operand l) s then accept P l s
  else seterr .procReject s

/-- `PROCESS L` on an instance (R100). -/
def issueProcess (P : Params) (length : Word) (s : State) : Result := .next (processCommand P length s)

/-- `PROCESS L` (R100), on the reference instance. -/
def execProcess (length : Word) (s : State) : Result := issueProcess Config.params length s

end Sys2Proof.Machine
end

