-- ==== Sys2Proof/Machine/Dispatch.lean ====
section
/-! DEFINITION. The dispatch of the decoded command to its meaning (R82): one arm per row of the opcode table. -/

namespace Sys2Proof.Machine

def exec (i : Instr) (s : State) : Host.Outcome State Fault Refusal :=
  match i with
  | .nop payload => Sys2Proof.Machine.execNop payload s
  | .setEnabled payload => Sys2Proof.Machine.execSetEnabled payload s
  | .setStrength payload => Sys2Proof.Machine.execSetStrength payload s
  | .reset payload => Sys2Proof.Machine.execReset payload s
  | .setProfile payload => Sys2Proof.Machine.execSetProfile payload s
  | .setNemethod payload => Sys2Proof.Machine.execSetNemethod payload s
  | .setGainlaw payload => Sys2Proof.Machine.execSetGainlaw payload s
  | .setSmoother payload => Sys2Proof.Machine.execSetSmoother payload s
  | .setSshape payload => Sys2Proof.Machine.execSetSshape payload s
  | .setBshape payload => Sys2Proof.Machine.execSetBshape payload s
  | .setGdepth payload => Sys2Proof.Machine.execSetGdepth payload s
  | .process length => Sys2Proof.Machine.execProcess length s

end Sys2Proof.Machine
end

