-- ==== Sys2Proof/Machine/Transform.lean ====
section
/-! DEFINITION. The transform engine and overlap-add synthesis (file 41): constant tables, extraction, the
radix-2 transform, the power spectrum, the Hermitian rebuild and the overlap-add. -/

namespace Sys2Proof.Machine

/-! ## Constant tables (R28): functions of the parameters -/

/-- `((2.0 × PI) × i) / N`, the angle of table entry `i` (R120, R121). -/
def angle (P : Params) (i : Nat) : F64 :=
  F64.div (F64.mul (F64.mul F64.two F64.pi) (F64.ofNat i)) (F64.ofNat P.n)

/-- `WIN[i]`, the periodic Hann window (R120). -/
def win (P : Params) (i : Nat) : F64 :=
  F64.mul (F64.lit 5 1) (F64.sub F64.one (P.arith.cos (angle P i)))

/-- `TWR[k]` (R121). -/
def twr (P : Params) (k : Nat) : F64 := P.arith.cos (angle P k)

/-- `TWI[k]` (R121). -/
def twi (P : Params) (k : Nat) : F64 := F64.neg (P.arith.sin (angle P k))

/-- `OLA_SCALE = (H / N) × 2.0` (R127). -/
def olaScale (P : Params) : F64 := F64.mul (F64.div (F64.ofNat P.h) (F64.ofNat P.n)) F64.two

/-! ## Working spectrum -/

/-- The frame scratch `RE[0..N−1]`, `IM[0..N−1]` (R29). It is written whole by each frame before it is read,
so it is passed from rule to rule and is no field of the state (R20). -/
structure Spectrum where
  re : List F64
  im : List F64
  deriving DecidableEq, Repr

/-- The samples of a frame, sanitised: a NaN or infinite word enters as +0.0 (R122). -/
def sanitised (w : Word) : F64 := if (f64 w).isFinite then f64 w else F64.zero

/-- `extract_and_window(start)` (R122), the scratch it writes. -/
def extractAndWindow (P : Params) (start : Nat) (s : State) : Spectrum where
  re := (List.range P.n).map (fun i => F64.mul (sanitised (inRead P s (start + i))) (win P i))
  im := List.replicate P.n F64.zero

/-- Whether a NaN or infinite word stands in the frame (R122, `NONFINITE_IN`). -/
def frameHasNonfinite (P : Params) (start : Nat) (s : State) : Bool :=
  (List.range P.n).any (fun i => !(f64 (inRead P s (start + i))).isFinite)

/-! ## The radix-2 transform (R123, R124) -/

/-- Exchange two elements. -/
def swapAt (l : List F64) (i j : Nat) : List F64 := (l.set i (elem l j)).set j (elem l i)

/-- The inner loop of the bit-reversal permutation: `while (j AND bit) ≠ 0`, then `j OR bit`; the first
argument bounds the rounds. -/
def bitRevNext : Nat → Nat → Nat → Nat
  | 0, bit, j => j ||| bit
  | fuel + 1, bit, j => if j &&& bit ≠ 0 then bitRevNext fuel (bit / 2) (j ^^^ bit) else j ||| bit

/-- One round of the permutation loop for index `i`; the pair holds `j` and the spectrum. -/
def bitRevStep (n : Nat) (acc : Nat × Spectrum) (i : Nat) : Nat × Spectrum :=
  let j := bitRevNext (n.log2 + 1) (n / 2) acc.1
  (j, if i < j then ⟨swapAt acc.2.re i j, swapAt acc.2.im i j⟩ else acc.2)

/-- The bit-reversal permutation of R123, for i in 1..N−1. -/
def bitReverse (n : Nat) (z : Spectrum) : Spectrum :=
  ((List.range' 1 (n - 1)).foldl (bitRevStep n) (0, z)).2

/-- One butterfly of R123 on elements `a` and `b` with the twiddle `(wr, wi)`. -/
def butterfly (wr wi : F64) (a b : Nat) (z : Spectrum) : Spectrum :=
  let tr := F64.sub (F64.mul wr (elem z.re b)) (F64.mul wi (elem z.im b))
  let ti := F64.add (F64.mul wr (elem z.im b)) (F64.mul wi (elem z.re b))
  { re := (z.re.set b (F64.sub (elem z.re a) tr)).set a (F64.add (elem z.re a) tr)
    im := (z.im.set b (F64.sub (elem z.im a) ti)).set a (F64.add (elem z.im a) ti) }

/-- The `jj` loop of R123: the butterflies of the group that starts at `st`. -/
def fftGroup (P : Params) (inv : Bool) (size st : Nat) (z : Spectrum) : Spectrum :=
  (List.range (size / 2)).foldl
    (fun z jj =>
      let k := jj * (P.n / size)
      let wi := if inv then F64.neg (twi P k) else twi P k
      butterfly (twr P k) wi (st + jj) (st + jj + size / 2) z) z

/-- The `st` loop of R123: `st = 0, size, …, N − size`. -/
def fftStage (P : Params) (inv : Bool) (z : Spectrum) (size : Nat) : Spectrum :=
  (List.range (P.n / size)).foldl (fun z g => fftGroup P inv size (g * size) z) z

/-- `fft(inv)` (R123): permutation, stages of size 2, 4, …, N, and for the inverse the factor `1.0 / N`. -/
def fft (P : Params) (inv : Bool) (z : Spectrum) : Spectrum :=
  let y := (List.range P.n.log2).foldl (fun z t => fftStage P inv z (2 ^ (t + 1))) (bitReverse P.n z)
  if inv then
    let c := F64.div F64.one (F64.ofNat P.n)
    ⟨y.re.map (fun x => F64.mul x c), y.im.map (fun x => F64.mul x c)⟩
  else y

/-- `power_spectrum()` (R125): `P[k]`. -/
def powerSpectrum (P : Params) (z : Spectrum) : List F64 :=
  perBin P.nb (fun k =>
    F64.add (F64.mul (elem z.re k) (elem z.re k)) (F64.mul (elem z.im k) (elem z.im k)))

/-! ## Synthesis -/

/-- `rebuild_hermitian()` (R126): bins 0 and N/2 real, bin N−k the conjugate of bin k. -/
def rebuildHermitian (P : Params) (z : Spectrum) : Spectrum where
  re := (List.range P.n).map (fun i => if i ≤ P.n / 2 then elem z.re i else elem z.re (P.n - i))
  im := (List.range P.n).map (fun i =>
    if i = 0 ∨ i = P.n / 2 then F64.zero
    else if i < P.n / 2 then elem z.im i
    else F64.neg (elem z.im (P.n - i)))

/-- One round of `overlap_add` (R128). -/
def overlapAddAt (P : Params) (base : Nat) (z : Spectrum) (s : State) (i : Nat) : State :=
  outWrite P (base + i) (F64.add (outRead P s (base + i)) (F64.mul (elem z.re i) (olaScale P))) s

/-- `overlap_add(base)` (R128): add the real part, scaled, to `OUT[base..base+N−1]`. -/
def overlapAdd (P : Params) (base : Nat) (z : Spectrum) (s : State) : State :=
  (List.range P.n).foldl (overlapAddAt P base z) s

end Sys2Proof.Machine
end

