-- ==== Sys2Proof/Machine/Equalizer.lean ====
section
/-! DEFINITION. The profile equalizer and the application of the gains (file 46). -/

namespace Sys2Proof.Machine

/-- `f = pow(10.0, dB / 20.0)`, the amplitude factor of a level (R202). -/
def dbFactor (P : Params) (dB : F64) : F64 :=
  P.arith.pow (F64.ofNat 10) (F64.div dB (F64.ofNat 20))

/-- `EQT[p][k]` (R202): the factors of the bands that hold bin `k`, multiplied in list order onto 1.0. -/
def eqt (P : Params) (p : Profile) (k : Nat) : F64 :=
  (P.eqBands p).foldl
    (fun acc b => if b.lo ≤ k ∧ k ≤ b.hi then F64.mul acc (dbFactor P b.dB) else acc) F64.one

/-- `apply_gain_and_eq()` (R203): bins 0..N/2 of the spectrum times the gain, then times the factor. -/
def applyGainAndEq (P : Params) (p : Profile) (g : List F64) (z : Spectrum) : Spectrum :=
  let scale := fun (l : List F64) => l.mapIdx (fun k x =>
    if k ≤ P.n / 2 then F64.mul (F64.mul x (elem g k)) (eqt P p k) else x)
  ⟨scale z.re, scale z.im⟩

end Sys2Proof.Machine
end

