-- ==== Sys2Proof/Machine/Gain.lean ====
section
/-! DEFINITION. The gain calculator (file 44). -/

namespace Sys2Proof.Machine

/-- `os`, the over-subtraction factor (R170). -/
def overSub (P : Params) (c : Cfg) : F64 := F64.add P.osLo (F64.mul (F64.sub P.osHi P.osLo) (effect c))

/-- `fl`, the gain floor (R170). -/
def gainFloor (c : Cfg) : F64 :=
  F64.add (F64.lit 1 2) (F64.mul (F64.lit 7 2) (F64.sub F64.one (effect c)))

/-- `w`, the temporal smoothing weight (R170). -/
def smoothWeight (c : Cfg) : F64 := F64.add (F64.lit 5 1) (F64.mul (F64.lit 3 1) (effect c))

/-- `q`, the noise-to-signal ratio of a bin (R171). -/
def noiseRatio (P : Params) (c : Cfg) (noise pw : F64) : F64 :=
  F64.div (F64.mul (overSub P c) noise) (F64.add pw P.eps)

/-- The linear law (R172). -/
def linearLaw (fl q : F64) : F64 := F64.max (F64.sub F64.one (F64.sqrt q)) fl

/-- The logarithmic law (R173). -/
def logarithmicLaw (P : Params) (fl q : F64) : F64 :=
  F64.max (F64.sub F64.one (F64.div (P.arith.ln (F64.add F64.one q)) (P.arith.ln F64.two))) fl

/-- The power law (R174). -/
def powerLaw (fl q : F64) : F64 := F64.max (F64.sqrt (F64.max (F64.sub F64.one q) F64.zero)) fl

/-- The selected law, capped at 1.0 (R172–R175). -/
def lawGain (P : Params) (c : Cfg) (q : F64) : F64 :=
  F64.min
    (match c.gainLaw with
      | .linear => linearLaw (gainFloor c) q
      | .logarithmic => logarithmicLaw P (gainFloor c) q
      | .power => powerLaw (gainFloor c) q)
    F64.one

/-- `gs`, the temporally smoothed gain (R176). -/
def smoothedGain (c : Cfg) (prev g : F64) : F64 :=
  F64.clamp
    (F64.add (F64.mul (smoothWeight c) prev) (F64.mul (F64.sub F64.one (smoothWeight c)) g))
    (gainFloor c) F64.one

/-- The blended gain `G[k]` (R177). -/
def blendedGain (c : Cfg) (gs : F64) : F64 :=
  F64.add (F64.sub F64.one (effect c)) (F64.mul (effect c) gs)

/-- `PREV_GAIN[k]` after the frame (R171–R176). -/
def newPrevGain (P : Params) (pw : List F64) (s : State) : List F64 :=
  perBin P.nb (fun k =>
    smoothedGain s.cfg (elem s.mem.prevGain k)
      (lawGain P s.cfg (noiseRatio P s.cfg (elem s.mem.noise k) (elem pw k))))

/-- The frame gains `G` of `gain_compute()` (R178). -/
def gainCompute (P : Params) (pw : List F64) (s : State) : List F64 :=
  (newPrevGain P pw s).map (blendedGain s.cfg)

/-- What `gain_compute()` writes: `PREV_GAIN` (R176). -/
def gainUpdate (P : Params) (pw : List F64) (s : State) : State :=
  { s with mem := { s.mem with prevGain := newPrevGain P pw s } }

end Sys2Proof.Machine
end

