-- ==== Sys2Proof/Machine/Gate.lean ====
section
/-! DEFINITION. The voice-activity gate, the output stage and telemetry (file 47). -/

namespace Sys2Proof.Machine

/-- `thr`, the dynamic threshold (R211, R212). -/
def threshold (P : Params) (c : Cfg) : F64 := F64.sub P.baseThr (F64.mul P.thrK (effect c))

/-- `HOLD` after a block of `l` samples with the score at or above threshold: saturating at 0 (R211). -/
def holdAfter (hold l : Word) : Word := if hold.toNat ≤ l.toNat then 0 else hold - l

/-- `gate_block_update(L)` (R211). -/
def gateBlockUpdate (P : Params) (l : Word) (s : State) : State :=
  if F64.lt s.sflat (threshold P s.cfg) then
    { s with gateOpen := true, hold := P.holdSamples s.cfg.profile }
  else
    { s with
      hold := holdAfter s.hold l
      gateOpen := if holdAfter s.hold l = 0 then false else s.gateOpen }

/-- The target of the multiplier (R213). -/
def gateTarget (P : Params) (c : Cfg) (gateOpen : Bool) : F64 :=
  if gateOpen then F64.one
  else F64.sub F64.one (F64.mul (f64 c.gdepth) (F64.sub F64.one (P.minGain c.profile)))

/-- The one-pole coefficient, chosen by the gate's flag (R213). -/
def gateCoef (P : Params) (c : Cfg) (gateOpen : Bool) : F64 :=
  if gateOpen then P.attack else P.release c.profile

/-- The multiplier after one sample step (R213). -/
def gateMultNext (P : Params) (c : Cfg) (gateOpen : Bool) (m : F64) : F64 :=
  F64.add m (F64.mul (gateCoef P c gateOpen) (F64.sub (gateTarget P c gateOpen) m))

/-- `gate_mult_step()` (R213). -/
def gateMultStep (P : Params) (s : State) : State :=
  { s with gateMult := gateMultNext P s.cfg s.gateOpen s.gateMult }

/-- `mk`, the makeup gain (R214). -/
def makeup (P : Params) (c : Cfg) : F64 :=
  F64.add F64.one (F64.mul (F64.sub P.makeupMax F64.one) (effect c))

/-- The soft limiter (R215). -/
def limiter (v : F64) : F64 :=
  if F64.lt (F64.lit 9 1) v.abs then
    F64.mul v.sign
      (F64.add (F64.lit 9 1) (F64.mul (F64.sub v.abs (F64.lit 9 1)) (F64.lit 3 1)))
  else v

/-- `output_stage(ola)` (R215). -/
def outputStage (P : Params) (s : State) (ola : F64) : Word :=
  r32 (limiter (F64.mul (F64.mul ola (makeup P s.cfg)) s.gateMult))

/-- The telemetry phase after a block (R220). -/
def nextTelemPhase (P : Params) (s : State) : Nat := (s.telemPhase + 1) % P.telemPeriod

/-- `telemetry_update()` (R220). -/
def telemetryUpdate (P : Params) (s : State) : State :=
  if s.cfg.enabled = false then s
  else if nextTelemPhase P s = 0 then
    { s with
      telemPhase := 0
      telemGr := r32 (F64.sub F64.one s.gateMult)
      telemFlat := r32 s.sflat
      telemSeq := s.telemSeq + 1 }
  else { s with telemPhase := nextTelemPhase P s }

end Sys2Proof.Machine
end

