-- ==== Sys2Proof/Machine/Noise.lean ====
section
/-! DEFINITION. The noise power estimator (file 43): the guard, the legacy and the advanced strategy. -/

namespace Sys2Proof.Machine

/-- The value `guard(v)` returns (R151). -/
def guardValue (P : Params) (v : F64) : F64 := F64.max (if v.isFinite then v else P.eps) P.eps

/-- Whether `guard` sees a value that is not finite and so does `seterr(STATE_GUARD)` (R151). -/
def guardTrips (vs : List F64) : Bool := vs.any (fun v => !v.isFinite)

/-! ## Legacy minimum tracking -/

/-- The smoothed power of R152 before the guard. -/
def legacySmooth (sig pw : F64) : F64 :=
  F64.add (F64.mul (F64.lit 98 2) sig) (F64.mul (F64.sub F64.one (F64.lit 98 2)) pw)

/-- The minimum tracker of R153, from the counter, the new smoothed power and the old minimum. -/
def legacyMin (frameCnt : Nat) (sig lmin : F64) : F64 :=
  if frameCnt = 0 then sig
  else if F64.lt sig lmin then sig
  else F64.add (F64.mul (F64.lit 9999 4) lmin) (F64.mul (F64.lit 1 4) sig)

/-- The noise estimate of R154, from the old estimate and the new minimum. -/
def legacyNoise (P : Params) (noise lmin : F64) : F64 :=
  F64.max
    (F64.add (F64.mul (F64.lit 995 3) noise)
      (F64.mul (F64.sub F64.one (F64.lit 995 3)) (F64.mul F64.two lmin)))
    P.eps

/-- `legacy_update()` (R152–R154). Bins do not read one another, so bin by bin in ascending k is array by
array. -/
def legacyUpdate (P : Params) (pw : List F64) (s : State) : State :=
  let raw := perBin P.nb (fun k => legacySmooth (elem s.mem.sig k) (elem pw k))
  let sig := raw.map (guardValue P)
  let lmin := perBin P.nb (fun k => legacyMin s.frameCnt (elem sig k) (elem s.mem.lmin k))
  let noise := perBin P.nb (fun k => legacyNoise P (elem s.mem.noise k) (elem lmin k))
  seterrIf (guardTrips raw) .stateGuard
    { s with mem := { s.mem with sig := sig, lmin := lmin, noise := noise } }

/-! ## Advanced subwindow minimum -/

/-- `alpha` of R157. -/
def alphaCoef (c : Cfg) : F64 :=
  F64.add (F64.lit 80 2)
    (F64.mul (F64.lit 19 2) (F64.div (F64.add (f64 c.sshape) F64.two) (F64.lit 4 0)))

/-- `bias` of R157. -/
def biasCoef (c : Cfg) : F64 := F64.add (F64.lit 15 1) (F64.mul F64.two (f64 c.bshape))

/-- The smoothed power of R157 before the guard. -/
def advancedSmooth (c : Cfg) (sig pw : F64) : F64 :=
  F64.add (F64.mul (alphaCoef c) sig) (F64.mul (F64.sub F64.one (alphaCoef c)) pw)

/-- The subwindow minima with row `ptr` lowered to the new smoothed power (R157). -/
def trackMinima (P : Params) (ptr : Nat) (sig : List F64) (rows : List (List F64)) : List (List F64) :=
  rows.set ptr (perBin P.nb (fun k => F64.min (subminAt rows ptr k) (elem sig k)))

/-- Whether this frame closes the active subwindow (R158). -/
def subwindowEnds (P : Params) (s : State) : Bool := decide (s.subCnt + 1 = P.v)

/-- The active subwindow after the frame (R158). -/
def nextPtr (P : Params) (s : State) : Nat :=
  if subwindowEnds P s then (s.subPtr + 1) % P.d else s.subPtr

/-- The frame count within the subwindow after the frame (R158). -/
def nextCnt (P : Params) (s : State) : Nat := if subwindowEnds P s then 0 else s.subCnt + 1

/-- The minimum over the D subwindows of bin `k` (R159). -/
def minOfMinima (P : Params) (rows : List (List F64)) (k : Nat) : F64 :=
  (List.range' 1 (P.d - 1)).foldl (fun m d => F64.min m (subminAt rows d k)) (subminAt rows 0 k)

/-- `advanced_update()` (R157–R159). -/
def advancedUpdate (P : Params) (pw : List F64) (s : State) : State :=
  let raw := perBin P.nb (fun k => advancedSmooth s.cfg (elem s.mem.sig k) (elem pw k))
  let sig := raw.map (guardValue P)
  let tracked := trackMinima P s.subPtr sig s.mem.submin
  let rows := if subwindowEnds P s then tracked.set (nextPtr P s) sig else tracked
  let noise := perBin P.nb (fun k => F64.max (F64.mul (biasCoef s.cfg) (minOfMinima P rows k)) P.eps)
  seterrIf (guardTrips raw) .stateGuard
    { s with
      mem := { s.mem with sig := sig, submin := rows, noise := noise }
      subPtr := nextPtr P s
      subCnt := nextCnt P s }

/-! ## Dispatch -/

/-- Advance of `FRAME_CNT` (R150). -/
def countFrame (s : State) : State := { s with frameCnt := (s.frameCnt + 1) % 500 }

/-- `noise_update()` (R150): only the selected strategy runs. -/
def noiseUpdate (P : Params) (pw : List F64) (s : State) : State :=
  match s.cfg.neMethod with
  | .legacy => legacyUpdate P pw (countFrame s)
  | .advanced => advancedUpdate P pw (countFrame s)

end Sys2Proof.Machine
end

