-- ==== Sys2Proof/Machine/Smoother.lean ====
section
/-! DEFINITION. The artifact smoother (file 45). -/

namespace Sys2Proof.Machine

/-- The 3-tap kernel (R190): the two edge bins are copied. -/
def kernel (P : Params) (g : List F64) : List F64 :=
  perBin P.nb (fun k =>
    if 1 ≤ k ∧ k ≤ P.nb - 2 then
      F64.add
        (F64.add (F64.mul (F64.lit 25 2) (elem g (k - 1))) (F64.mul (F64.lit 5 1) (elem g k)))
        (F64.mul (F64.lit 25 2) (elem g (k + 1)))
    else elem g k)

/-- The anti-hole clamp (R191), from the kernel's value and the running gain before this frame. -/
def antiHole (t fsg : F64) : F64 :=
  if F64.lt t (F64.mul (F64.lit 7 1) fsg) then F64.mul (F64.lit 85 2) fsg else t

/-- The running gain after the frame (R192). -/
def runningGain (fsg t : F64) : F64 := F64.add (F64.mul (F64.lit 6 1) fsg) (F64.mul (F64.lit 4 1) t)

/-- The gains `smooth_gains()` leaves in `G` (R190–R193). -/
def smoothGains (P : Params) (g : List F64) (s : State) : List F64 :=
  let t := kernel P g
  perBin P.nb (fun k => antiHole (elem t k) (elem s.mem.fsg k))

/-- What `smooth_gains()` writes besides `G`: `FSG` (R192). -/
def smootherUpdate (P : Params) (g : List F64) (s : State) : State :=
  let t := smoothGains P g s
  { s with
    mem := { s.mem with fsg := perBin P.nb (fun k => runningGain (elem s.mem.fsg k) (elem t k)) } }

end Sys2Proof.Machine
end

