-- ==== Sys2Proof/Machine/Vad.lean ====
section
/-! DEFINITION. The voice-activity feature extractor (file 42). -/

namespace Sys2Proof.Machine

/-- The bins `VAD_LO..VAD_HI`, ascending. -/
def vadBand (P : Params) : List Nat := List.range' P.vadLo (P.vadHi + 1 - P.vadLo)

/-- The peak of `band_stats` (R140). -/
def bandPeak (P : Params) (pw : List F64) : F64 :=
  (vadBand P).foldl (fun pk k => F64.max pk (elem pw k)) F64.zero

/-- The mean of `band_stats` (R140): the sum in ascending k, divided by the number of bins. -/
def bandMean (P : Params) (pw : List F64) : F64 :=
  F64.div ((vadBand P).foldl (fun sm k => F64.add sm (elem pw k)) F64.zero)
    (F64.ofNat (P.vadHi + 1 - P.vadLo))

/-- The raw score of R141. -/
def rawScore (P : Params) (pk mean : F64) : F64 :=
  let crest := F64.div (F64.sqrt pk) (F64.sqrt (F64.add mean P.eps))
  F64.clamp (F64.div (F64.lit 15 1) (F64.add crest P.eps)) F64.zero F64.one

/-- The asymmetric smoothing of R142. -/
def smoothScore (raw sflat : F64) : F64 :=
  if F64.lt raw sflat then F64.add (F64.mul (F64.lit 3 1) raw) (F64.mul (F64.lit 7 1) sflat)
  else F64.add (F64.mul (F64.lit 2 2) raw) (F64.mul (F64.lit 98 2) sflat)

/-- `vad_update()` (R142): writes `RAW_FLAT` and `SFLAT`. -/
def vadUpdate (P : Params) (pw : List F64) (s : State) : State :=
  { s with
    rawFlat := rawScore P (bandPeak P pw) (bandMean P pw)
    sflat := smoothScore (rawScore P (bandPeak P pw) (bandMean P pw)) s.sflat }

end Sys2Proof.Machine
end

