-- ==== Sys2Proof/Machine/Scheduler.lean ====
section
/-! DEFINITION. The engine: the frame pipeline, the sample step, output selection, and the execution of a block
(R102–R112). -/

namespace Sys2Proof.Machine

/-! ## Sequencer -/

/-- The sequencer after the sample at `IDX` is written (R103, R104). -/
def advanceScheduler (P : Params) (s : State) : State :=
  if s.warm < P.n then
    { s with
      idx := (s.idx + 1) % (2 * P.n)
      warm := s.warm + 1
      hopPhase := if s.warm + 1 = P.n then 0 else s.hopPhase }
  else
    { s with
      idx := (s.idx + 1) % (2 * P.n)
      hopPhase := (s.hopPhase + 1) % P.h }

/-- Whether `advance_scheduler()`, run in state `s`, returns true: a frame is due (R104). -/
def frameDue (P : Params) (s : State) : Bool :=
  if s.warm < P.n then decide (s.warm + 1 = P.n) else decide ((s.hopPhase + 1) % P.h = 0)

/-! ## Frame (R105) -/

/-- The gains the equalizer applies, and the state with what the gain calculator and the smoother write. -/
def frameGains (P : Params) (pw : List F64) (s : State) : List F64 × State :=
  let g := gainCompute P pw s
  let s1 := gainUpdate P pw s
  if s.cfg.smoother then (smoothGains P g s1, smootherUpdate P g s1) else (g, s1)

/-- The analysis half of a frame: the spectrum with its power, and the state after `vad_update` and
`noise_update`. -/
def frameAnalysis (P : Params) (start : Nat) (s : State) : Spectrum × List F64 × State :=
  let z := fft P false (extractAndWindow P start s)
  let pw := powerSpectrum P z
  let s1 := seterrIf (frameHasNonfinite P start s) .nonfiniteIn s
  (z, pw, noiseUpdate P pw (vadUpdate P pw s1))

/-- The real signal the frame contributes: gains and equalizer, Hermitian rebuild, inverse transform. -/
def frameSynthesis (P : Params) (p : Profile) (g : List F64) (z : Spectrum) : Spectrum :=
  fft P true (rebuildHermitian P (applyGainAndEq P p g z))

/-- `frame(start, base)` (R105). -/
def frame (P : Params) (start base : Nat) (s : State) : State :=
  let a := frameAnalysis P start s
  let g := frameGains P a.2.1 a.2.2
  overlapAdd P base (frameSynthesis P s.cfg.profile g.1 a.1) g.2

/-! ## Sample step (R103) -/

/-- The word the bypass returns: the input word of N sample steps earlier (R108). -/
def bypassWord (P : Params) (s : State) (i0 : Nat) : Word := inRead P s (i0 + P.n)

/-- `isfinite(f64(y))` for an output word. -/
def finiteWord (y : Word) : Bool := (f64 y).isFinite

/-- `select_output` (R107): bypass before cold start before the processed path, and the graceful bypass of
R116. -/
def selectOutput (P : Params) (xw : Word) (warm0 i0 : Nat) (ola : F64) (s : State) : State × Word :=
  if s.cfg.enabled = false then (s, bypassWord P s i0)
  else if warm0 < P.n then (s, xw)
  else if finiteWord (outputStage P s ola) then (s, outputStage P s ola)
  else (seterr .stateGuard s, bypassWord P s i0)

/-- The first half of `sample_step`: write the input, advance, run the frame if one is due (R103). -/
def sampleInput (P : Params) (xw : Word) (s : State) : State :=
  let s1 := advanceScheduler P (inWrite P s.idx xw s)
  if frameDue P s then frame P (s1.idx + P.n) s1.idx s1 else s1

/-- `sample_step(xw)` (R103): write, advance, frame, gate step, drain, select. -/
def sampleStep (P : Params) (xw : Word) (s : State) : State × Word :=
  let s1 := gateMultStep P (sampleInput P xw s)
  let ola := outRead P s1 s.idx
  selectOutput P xw s.warm s.idx ola (outWrite P s.idx F64.zero s1)

/-- The sample loop of a block (R102): the samples in order, the output words in order. -/
def runSamples (P : Params) : List Word → State → State × List Word
  | [], s => (s, [])
  | x :: xs, s =>
    let a := sampleStep P x s
    let b := runSamples P xs a.1
    (b.1, a.2 :: b.2)

/-! ## Block (R102, R112) -/

/-- `complete(outs)` (R112): queue the output words, end the job. -/
def complete (outs : List Word) (s : State) : State :=
  { s with outFifo := s.outFifo ++ outs, jobL := 0, jobX := [], busy := false }

/-- `engine_block()` (R102): the engine's one step on an accepted block. -/
def engineBlock (P : Params) (s : State) : State :=
  let r := runSamples P s.jobX (gateBlockUpdate P s.jobL s)
  complete r.2 (telemetryUpdate P r.1)

end Sys2Proof.Machine
end

