-- ==== Sys2Proof/Machine/Bus.lean ====
section
/-! DEFINITION. The host register window (files 10 §11, 20 and 49): address decode, reads, writes, command issue,
and the events of the two agents. -/

namespace Sys2Proof.Machine

/-! ## Register offsets (R45) -/

def offId : Nat := 0x000
def offGeometry : Nat := 0x004
def offStatus : Nat := 0x008
def offErr : Nat := 0x00C
def offCmdLo : Nat := 0x010
def offCmdHi : Nat := 0x014
def offInData : Nat := 0x018
def offOutData : Nat := 0x01C
def offInCount : Nat := 0x020
def offOutCount : Nat := 0x024
def offTelemGr : Nat := 0x028
def offTelemFlat : Nat := 0x02C
def offTelemSeq : Nat := 0x030
def offActiveCfg : Nat := 0x034
def offActiveStrength : Nat := 0x038
def offActiveSshape : Nat := 0x03C
def offActiveBshape : Nat := 0x040
def offActiveGdepth : Nat := 0x044
def offPending : Nat := 0x048

/-! ## Addresses -/

/-- The size of the window in bytes (R60). -/
def windowSize : Nat := 4096

/-- Decode of a bus address: `offset = addr − BASE` for addresses in `[BASE, BASE + 0x1000)` (R67). -/
def busTarget (P : Params) (addr : Nat) : BusTarget :=
  if P.base ≤ addr ∧ addr < P.base + windowSize then .window (BitVec.ofNat 12 (addr - P.base))
  else .outside

/-- The event of a host read at a bus address. -/
def readAt (P : Params) (addr size : Nat) : Event := .read (busTarget P addr) size

/-- The event of a host write at a bus address. -/
def writeAt (P : Params) (addr size : Nat) (v : Word) : Event := .write (busTarget P addr) size v

/-- A good access is 4 bytes wide at a multiple of 4 (R64). -/
def goodAccess (o : BitVec 12) (size : Nat) : Bool := decide (size = 4) && decide (o.toNat % 4 = 0)

/-! ## Reads (R260) -/

/-- The word a read without side effect returns; `OUT_DATA`, which has one, is `popOut`. -/
def readValue (P : Params) (s : State) (o : Nat) : Word :=
  match o with
  | 0x000 => idWord
  | 0x004 => geometryWord P
  | 0x008 => statusWord P s
  | 0x00C => s.err &&& errMask
  | 0x010 => s.cmdLo
  | 0x014 => 0
  | 0x018 => 0
  | 0x020 => BitVec.ofNat 32 s.inFifo.length
  | 0x024 => BitVec.ofNat 32 s.outFifo.length
  | 0x028 => s.telemGr
  | 0x02C => s.telemFlat
  | 0x030 => s.telemSeq
  | 0x034 => activeCfgWord s.cfg
  | 0x038 => s.cfg.strength
  | 0x03C => s.cfg.sshape
  | 0x040 => s.cfg.bshape
  | 0x044 => s.cfg.gdepth
  | 0x048 => pendingWord s.pend
  | _ => 0

/-- `MemRead` at an offset of the window (R260): the word returned and the state after. -/
def memRead (P : Params) (o : BitVec 12) (size : Nat) (s : State) : Word × State :=
  if goodAccess o size = false then (0, seterr .badAccess s)
  else if o.toNat = offOutData then popOut s
  else (readValue P s o.toNat, s)

/-! ## Writes and command issue (R261, R263) -/

/-- A command on an instance (R82): `exec` with the parameters as an argument. `PROCESS` is the one command that
reads them (R101, R238, R302); on the reference instance this is `exec` (`issueInstr_reference`). -/
def issueInstr (P : Params) (i : Instr) (s : State) : Result :=
  match i with
  | .nop payload => execNop payload s
  | .setEnabled payload => execSetEnabled payload s
  | .setStrength payload => execSetStrength payload s
  | .reset payload => execReset payload s
  | .setProfile payload => execSetProfile payload s
  | .setNemethod payload => execSetNemethod payload s
  | .setGainlaw payload => execSetGainlaw payload s
  | .setSmoother payload => execSetSmoother payload s
  | .setSshape payload => execSetSshape payload s
  | .setBshape payload => execSetBshape payload s
  | .setGdepth payload => execSetGdepth payload s
  | .process length => issueProcess P length s

/-- On the reference instance a command is `exec` of it. -/
theorem issueInstr_reference (i : Instr) (s : State) : issueInstr Config.params i s = exec i s := by
  cases i <;> rfl

/-- The issue of a command word by the write of `CMD_HI` (R82, R263): decode, then the command, or
`seterr(ILLEGAL_CMD)` and nothing else. -/
def issueWord (P : Params) (c : CmdWord) (s : State) : Result :=
  match decode c with
  | .instr i => issueInstr P i s
  | .illegal _ => .next (seterr .illegalCmd s)

/-- `MemWrite` at an offset of the window (R261). Writes to read-only registers and reserved offsets do
nothing. -/
def memWrite (P : Params) (o : BitVec 12) (size : Nat) (v : Word) (s : State) : Result :=
  if goodAccess o size = false then .next (seterr .badAccess s)
  else if o.toNat = offErr then .next { s with err := errClear s.err v }
  else if o.toNat = offCmdLo then .next { s with cmdLo := v }
  else if o.toNat = offCmdHi then issueWord P (commandWord v s.cmdLo) s
  else if o.toNat = offInData then .next (pushIn P v s)
  else .next s

/-! ## Events -/

/-- The engine's turn (R102): the block if one is in flight, nothing otherwise (R12). -/
def engineTurn (P : Params) (s : State) : State := if s.busy then engineBlock P s else s

/-- A host access to where the bus routes it (R67, I6). -/
def busAccess (t : BusTarget) (inWindow : BitVec 12 → Result) : Result :=
  match t with
  | .window o => inWindow o
  | .outside => .refused .outsideWindow

/-- A host read: the word it returns is left in `busData`. -/
def readAndKeep (P : Params) (o : BitVec 12) (size : Nat) (s : State) : State :=
  { (memRead P o size s).2 with busData := (memRead P o size s).1 }

/-- One event in the state it finds (R12, R65, R300). -/
def runEvent (P : Params) (e : Event) (s : State) : Result :=
  match e with
  | .read t size => busAccess t (fun o => .next (readAndKeep P o size s))
  | .write t size v => busAccess t (fun o => memWrite P o size v s)
  | .engine => .next (engineTurn P s)
  | .powerOn => .next (powerOnReset P s)

/-- One step: the next event of the agenda; with an empty agenda the engine takes its turn, so that an
accepted block is always completed (R320, I4). -/
def stepInstance (P : Params) (s : State) : Result :=
  match s.agenda with
  | [] => .next (engineTurn P s)
  | e :: rest => runEvent P e { s with agenda := rest }

/-! ## Placing a command (for `State.withFetchWord`) -/

/-- A 4-byte write at a register's offset (R91, `WR32`). -/
def wr32 (o : Nat) (v : Word) : Event := .write (.window (BitVec.ofNat 12 o)) 4 v

/-- A 4-byte read at a register's offset (R91, `RD32`). -/
def rd32 (o : Nat) : Event := .read (.window (BitVec.ofNat 12 o)) 4

/-- The state in which the host has loaded the payload of a command word into the latch and is about to
write its upper half to `CMD_HI`. -/
def placeCommand (c : CmdWord) (s : State) : State :=
  { s with
    cmdLo := c.extractLsb' 0 32
    agenda := wr32 offCmdHi (c.extractLsb' 32 32) :: s.agenda }

end Sys2Proof.Machine
end

