-- ==== Sys2Proof/Machine/Step.lean ====
section
/-! DEFINITION. One step of the machine, and how a command comes to be the next one. -/

namespace Sys2Proof.Machine

/-- One step of the reference instance (R12, R70, R71). -/
def step (s : State) : Host.Outcome State Fault Refusal := stepInstance Config.params s

/-- The state whose next step issues the command word with the bits `w` (log entry 3). -/
def State.withFetchWord (s : State) (nbits w : Nat) : State :=
  placeCommand (BitVec.ofNat 64 (w % 2 ^ nbits)) s

end Sys2Proof.Machine
end

