-- ==== Sys2Proof/Machine/Assembler.lean ====
section
/-! DEFINITION. The assembler syntax and the pseudo-instructions (R91, R92): what one source line stands for, as bus
accesses of the host. A notation only (D53): no step of the machine depends on it. -/

namespace Sys2Proof.Machine

/-! ## Pseudo-instructions (R92) -/

/-- Any command: `WR32 CMD_LO, X[31:0]`, then `WR32 CMD_HI, X[63:32]`. -/
def wordEvents (c : CmdWord) : List Event :=
  [wr32 offCmdLo (c.extractLsb' 0 32), wr32 offCmdHi (c.extractLsb' 32 32)]

/-- The accesses of a command. -/
def commandEvents (i : Instr) : List Event := wordEvents (encode i)

/-- What an assembled line is: the accesses it stands for, or the loop `WAIT`. -/
inductive AsmLine where
  | accesses (es : List Event)
  /-- Repeat `RD32 STATUS` until bit 0 of the value read is 0. -/
  | wait
  deriving DecidableEq, Repr

/-- `ENABLE`. -/
def asmEnable : AsmLine := .accesses (commandEvents (.setEnabled 1))

/-- `BYPASS`. -/
def asmBypass : AsmLine := .accesses (commandEvents (.setEnabled 0))

/-- `GATE.OFF`. -/
def asmGateOff : AsmLine := .accesses (commandEvents (.setGdepth 0x00000000))

/-- `PUSH v`. -/
def asmPush (v : F64) : AsmLine := .accesses [wr32 offInData (r32 v)]

/-- `POP`. -/
def asmPop : AsmLine := .accesses [rd32 offOutData]

/-- `CLEARERR`. -/
def asmClearerr : AsmLine := .accesses [wr32 offErr 0xFFFFFFFF]

/-- The accesses of a line in a run in which a `WAIT` takes `polls` reads of `STATUS`. -/
def AsmLine.events (polls : Nat) : AsmLine → List Event
  | .accesses es => es
  | .wait => List.replicate polls (rd32 offStatus)

/-- Whether a `WAIT` ends at the `STATUS` read just made: bit 0 of the word is 0. -/
def waitEnds (s : State) : Bool := !s.busData.getLsbD 0

/-! ## Characters and numbers -/

/-- The value of a decimal or hexadecimal digit. -/
def digitValue (c : Char) : Option Nat :=
  let n := c.toNat
  if 48 ≤ n ∧ n ≤ 57 then some (n - 48)
  else if 65 ≤ n ∧ n ≤ 70 then some (n - 55)
  else if 97 ≤ n ∧ n ≤ 102 then some (n - 87)
  else none

/-- The digit in a base. -/
def digitIn (base : Nat) (c : Char) : Option Nat :=
  match digitValue c with
  | some d => if d < base then some d else none
  | none => none

/-- Read digits after those already read: the number, how many digits were read, and the rest. `_` separates
digits and means nothing (R9). -/
def readDigits (base : Nat) : Nat → Nat → List Char → Nat × Nat × List Char
  | acc, k, [] => (acc, k, [])
  | acc, k, c :: cs =>
    match digitIn base c with
    | some d => readDigits base (acc * base + d) (k + 1) cs
    | none => if c = '_' ∧ 0 < k then readDigits base acc k cs else (acc, k, c :: cs)

/-- A whole word of digits. -/
def wholeNumber (base : Nat) (cs : List Char) : Option Nat :=
  match readDigits base 0 0 cs with
  | (v, k + 1, []) => let _ := k; some v
  | _ => none

/-- An unsigned integer, decimal or `0x` hexadecimal (R91). -/
def natLiteral : List Char → Option Nat
  | '0' :: 'x' :: cs => wholeNumber 16 cs
  | cs => wholeNumber 10 cs

/-- A 32-bit integer. -/
def wordLiteral (cs : List Char) : Option Word :=
  match natLiteral cs with
  | some v => if v < 2 ^ 32 then some (BitVec.ofNat 32 v) else none
  | none => none

/-- A leading sign: whether it is `-`, and the rest. -/
def readSign : List Char → Bool × List Char
  | '-' :: cs => (true, cs)
  | '+' :: cs => (false, cs)
  | cs => (false, cs)

/-- The exponent part that starts with the letter `mark`; nothing is exponent 0. -/
def readExponent (mark : Char) : List Char → Option Int
  | [] => some 0
  | c :: cs =>
    if c = mark then
      match wholeNumber 10 (readSign cs).2 with
      | some e => some (if (readSign cs).1 then -(e : Int) else (e : Int))
      | none => none
    else none

/-- A sign and the fraction `num / den` a floating literal denotes, exactly. -/
structure AsmReal where
  neg : Bool
  num : Nat
  den : Nat
  deriving DecidableEq, Repr

/-- The fraction `m × base^(−k) × radix^e`. -/
def scaled (neg : Bool) (m base k radix : Nat) (e : Int) : AsmReal where
  neg := neg
  num := m * radix ^ e.toNat
  den := base ^ k * radix ^ (-e).toNat

/-- Digits with at most one point, then an exponent. -/
def realBody (neg : Bool) (base radix : Nat) (mark : Char) (cs : List Char) : Option AsmReal :=
  let whole := readDigits base 0 0 cs
  let frac := match whole.2.2 with
    | '.' :: rest => readDigits base whole.1 0 rest
    | rest => (whole.1, 0, rest)
  if whole.2.1 + frac.2.1 = 0 then none
  else (readExponent mark frac.2.2).map (scaled neg frac.1 base frac.2.1 radix)

/-- A decimal (`-1.5e3`) or hexadecimal (`0x1.8p3`) floating literal (R91). -/
def realLiteral (cs : List Char) : Option AsmReal :=
  match readSign cs with
  | (neg, '0' :: 'x' :: rest) => realBody neg 16 2 'p' rest
  | (neg, rest) => realBody neg 10 10 'e' rest

/-- The binary32 word nearest to the literal, ties to even (R91). -/
def AsmReal.toWord (r : AsmReal) : Word :=
  word32 r.neg (Nat.min (roundMag 24 (r.num * 2 ^ 149) r.den) 0x7F800000)

/-- The binary64 value nearest to the literal. -/
def AsmReal.toF64 (r : AsmReal) : F64 := F64.round r.neg (r.num * 2 ^ 1074) r.den

/-! ## Operands (R91) -/

/-- A `BOOL` operand: `0` or `1`. -/
def boolText (cs : List Char) : Option Word :=
  if cs = "0".toList then some 0 else if cs = "1".toList then some 1 else none

/-- An `ENUM` operand: a lower-case name of R85, whose code is its position, or a decimal code. -/
def enumText (names : List String) (cs : List Char) : Option Word :=
  match names.findIdx? (fun n => n.toList == cs) with
  | some i => some (BitVec.ofNat 32 i)
  | none =>
    match wholeNumber 10 cs with
    | some v => if v < 2 ^ 32 then some (BitVec.ofNat 32 v) else none
    | none => none

/-- An `F32` operand: a floating literal, or `w:0xHHHHHHHH` for an exact word. -/
def f32Text : List Char → Option Word
  | 'w' :: ':' :: '0' :: 'x' :: cs => if cs.length = 8 then wordLiteral ('0' :: 'x' :: cs) else none
  | cs => (realLiteral cs).map AsmReal.toWord

/-- The names of the registers and their offsets (R45). -/
def registerNames : List (String × Nat) :=
  [("ID", offId), ("GEOMETRY", offGeometry), ("STATUS", offStatus), ("ERR", offErr),
   ("CMD_LO", offCmdLo), ("CMD_HI", offCmdHi), ("IN_DATA", offInData), ("OUT_DATA", offOutData),
   ("IN_COUNT", offInCount), ("OUT_COUNT", offOutCount), ("TELEM_GR", offTelemGr),
   ("TELEM_FLAT", offTelemFlat), ("TELEM_SEQ", offTelemSeq), ("ACTIVE_CFG", offActiveCfg),
   ("ACTIVE_STRENGTH", offActiveStrength), ("ACTIVE_SSHAPE", offActiveSshape),
   ("ACTIVE_BSHAPE", offActiveBshape), ("ACTIVE_GDEPTH", offActiveGdepth), ("PENDING", offPending)]

/-- An offset of the window: a register's name or a number below 4096. -/
def offsetText (cs : List Char) : Option Nat :=
  match registerNames.find? (fun r => r.1.toList == cs) with
  | some r => some r.2
  | none =>
    match natLiteral cs with
    | some v => if v < windowSize then some v else none
    | none => none

/-! ## Lines -/

/-- The part of a line before `;`. -/
def withoutComment (cs : List Char) : List Char := cs.takeWhile (fun c => c != ';')

/-- The words of a line, from the right: blanks separate, a comma is a word of its own. The first of the
list is the word being read. -/
def splitWords : List Char → List (List Char)
  | [] => [[]]
  | c :: cs =>
    match splitWords cs with
    | [] => [[c]]
    | w :: ws =>
      if c = ' ' ∨ c = '\t' then [] :: w :: ws
      else if c = ',' then [] :: [c] :: w :: ws
      else (c :: w) :: ws

/-- The words of a line. -/
def wordsOf (cs : List Char) : List (List Char) := (splitWords cs).filter (fun w => !w.isEmpty)

/-- A command with its operand text. -/
def commandOperand (m : List Char) (op : List Char) : Option Instr :=
  if m = "SET.ENABLED".toList then (boolText op).map .setEnabled
  else if m = "SET.STRENGTH".toList then (f32Text op).map .setStrength
  else if m = "SET.PROFILE".toList then (enumText ["plain", "clarity"] op).map .setProfile
  else if m = "SET.NEMETHOD".toList then (enumText ["legacy", "advanced"] op).map .setNemethod
  else if m = "SET.GAINLAW".toList then (enumText ["linear", "logarithmic", "power"] op).map .setGainlaw
  else if m = "SET.SMOOTHER".toList then (boolText op).map .setSmoother
  else if m = "SET.SSHAPE".toList then (f32Text op).map .setSshape
  else if m = "SET.BSHAPE".toList then (f32Text op).map .setBshape
  else if m = "SET.GDEPTH".toList then (f32Text op).map .setGdepth
  else if m = "PROCESS".toList then (wordLiteral op).map .process
  else none

/-- A line of one word. -/
def assembleOne (m : List Char) : Option AsmLine :=
  if m = "NOP".toList then some (.accesses (commandEvents (.nop 0)))
  else if m = "RESET".toList then some (.accesses (commandEvents (.reset 0)))
  else if m = "ENABLE".toList then some asmEnable
  else if m = "BYPASS".toList then some asmBypass
  else if m = "GATE.OFF".toList then some asmGateOff
  else if m = "POP".toList then some asmPop
  else if m = "WAIT".toList then some .wait
  else if m = "CLEARERR".toList then some asmClearerr
  else none

/-- A line of a word and an operand. -/
def assembleTwo (m op : List Char) : Option AsmLine :=
  if m = "PUSH".toList then (realLiteral op).map (fun r => asmPush r.toF64)
  else if m = "CMD".toList then
    match natLiteral op with
    | some v => if v < 2 ^ 64 then some (.accesses (wordEvents (BitVec.ofNat 64 v))) else none
    | none => none
  else if m = "RD32".toList then (offsetText op).map (fun o => .accesses [rd32 o])
  else (commandOperand m op).map (fun i => .accesses (commandEvents i))

/-- `WR32 offset, value`. -/
def assembleWrite (off value : List Char) : Option AsmLine :=
  match offsetText off, wordLiteral value with
  | some o, some v => some (.accesses [wr32 o v])
  | _, _ => none

/-- One source line (R91); `none` where it is no line of the syntax. -/
def assemble (line : String) : Option AsmLine :=
  match wordsOf (withoutComment line.toList) with
  | [] => some (.accesses [])
  | [m] => assembleOne m
  | [m, op] => assembleTwo m op
  | [m, off, comma, value] =>
    if m = "WR32".toList ∧ comma = [','] then assembleWrite off value else none
  | _ => none

end Sys2Proof.Machine
end

