-- ==== Sys2Proof/Machine/Instance.lean ====
section
/-! DEFINITION. Instantiation (R7): the constraints are checked once, and only parameters that pass give a machine. -/

namespace Sys2Proof.Machine

/-- An instance of NR-CORE: parameters that passed the checks of R7. -/
structure Instance where
  params : Params
  valid : params.valid = true

/-- Instantiation with some parameters (R7): the instance, or a refusal when they violate a constraint. The
constraint of `ARITH` is part of the type `Arith`. -/
def instantiate (P : Params) : Host.Outcome Instance Fault Refusal :=
  if h : P.valid = true then .next ⟨P, h⟩ else .refused .invalidParameters

/-- The machine of an instance: its step, from its own state after power-on reset. -/
def machineOf (I : Instance) : Host.Core where
  State := State
  Fault := Fault
  Refusal := Refusal
  step := stepInstance I.params
  reset := State.por I.params

end Sys2Proof.Machine
end

