-- ==== Sys2Proof/Safety.lean ====
section
/-! DEFINITION. What counts as a safe run, and the invariants of the state, in the terms the statements use. -/

namespace Sys2Proof.Machine

/-! ## Runs -/

/-- `k` steps, up to the first stop (what `Host.Core.run` does with this machine). -/
def runSteps : Nat → State → Host.Outcome State Fault Refusal
  | 0, s => .next s
  | k + 1, s =>
    match step s with
    | .next t => runSteps k t
    | .fault r => .fault r
    | .refused r => .refused r

/-- The meanings of a list of commands one after another, as far as each answers a next state. -/
def issueAll : List Instr → State → Host.Outcome State Fault Refusal
  | [], s => .next s
  | i :: rest, s =>
    match exec i s with
    | .next t => issueAll rest t
    | .fault r => .fault r
    | .refused r => .refused r

/-! ## Batches (R238) -/

/-- What a command makes of one field of the shadow: the value it issues for the field, if it is the field's command
and its payload is legal. One projection for each field. -/
structure Issued where
  enabled : Option Bool
  strength : Option Word
  profile : Option Profile
  neMethod : Option NeMethod
  gainLaw : Option GainLaw
  smoother : Option Bool
  sshape : Option Word
  bshape : Option Word
  gdepth : Option Word
  deriving DecidableEq, Repr

/-- No value for any field. -/
def Issued.nothing : Issued := ⟨none, none, none, none, none, none, none, none, none⟩

/-- The values a command issues (R231 to R237, R239 to R241). -/
def issued : Instr → Issued
  | .nop _ => .nothing
  | .setEnabled p => { Issued.nothing with enabled := boolOperand p }
  | .setStrength p => { Issued.nothing with strength := strengthOperand p }
  | .reset _ => .nothing
  | .setProfile p => { Issued.nothing with profile := profileOperand p }
  | .setNemethod p => { Issued.nothing with neMethod := neMethodOperand p }
  | .setGainlaw p => { Issued.nothing with gainLaw := gainLawOperand p }
  | .setSmoother p => { Issued.nothing with smoother := boolOperand p }
  | .setSshape p => { Issued.nothing with sshape := sshapeOperand p }
  | .setBshape p => { Issued.nothing with bshape := bshapeOperand p }
  | .setGdepth p => { Issued.nothing with gdepth := gdepthOperand p }
  | .process _ => .nothing

/-- The last value a batch issues for a field; the field's old value if it issues none. -/
def lastIssued {α : Type} (field : Issued → Option α) (batch : List Instr) (old : α) : α :=
  (batch.reverse.findSome? (fun i => field (issued i))).getD old

/-- The command is no `PROCESS`. -/
def isConfiguration : Instr → Bool
  | .nop _ => true
  | .setEnabled _ => true
  | .setStrength _ => true
  | .reset _ => true
  | .setProfile _ => true
  | .setNemethod _ => true
  | .setGainlaw _ => true
  | .setSmoother _ => true
  | .setSshape _ => true
  | .setBshape _ => true
  | .setGdepth _ => true
  | .process _ => false

/-- The command is a `RESET`. -/
def isReset : Instr → Bool
  | .nop _ => false
  | .setEnabled _ => false
  | .setStrength _ => false
  | .reset _ => true
  | .setProfile _ => false
  | .setNemethod _ => false
  | .setGainlaw _ => false
  | .setSmoother _ => false
  | .setSshape _ => false
  | .setBshape _ => false
  | .setGdepth _ => false
  | .process _ => false

/-- Nothing is pending: every valid bit and `RESET_PENDING` are 0. The values are whatever an earlier drain left. -/
def Pend.isEmpty (p : Pend) : Bool :=
  !p.enabled.valid && !p.strength.valid && !p.profile.valid && !p.neMethod.valid && !p.gainLaw.valid
    && !p.smoother.valid && !p.sshape.valid && !p.bshape.valid && !p.gdepth.valid && !p.resetPending

/-! ## The environment -/

/-- The event stays inside the register window, or is no bus access. -/
def Event.inWindow : Event → Bool
  | .read (.window _) _ => true
  | .write (.window _) _ _ => true
  | .read .outside _ => false
  | .write .outside _ _ => false
  | .engine => true
  | .powerOn => true

/-- Every access the environment makes stays inside the register window (R67, R283). -/
def State.inWindow (s : State) : Bool := s.agenda.all Event.inWindow

/-- The event is an access of the host. -/
def Event.isHost : Event → Bool
  | .read _ _ => true
  | .write _ _ _ => true
  | .engine => false
  | .powerOn => false

/-- The event is a read of a telemetry register. -/
def Event.readsTelemetry : Event → Bool
  | .read (.window o) _ => o == 0x028 || o == 0x02C || o == 0x030
  | .read .outside _ => false
  | .write _ _ _ => false
  | .engine => false
  | .powerOn => false

/-- The event is a good write of `ERR`. -/
def Event.writesErr : Event → Bool
  | .write (.window o) size _ => o == 0x00C && size == 4
  | .write .outside _ _ => false
  | .read _ _ => false
  | .engine => false
  | .powerOn => false

/-! ## Invariants -/

/-- The bounds of the sequencer, the counters, the queues, the job and the memories (R24, R25, R31, R35, R37,
R41, R49, R61). -/
structure State.Wf (P : Params) (s : State) : Prop where
  mem : Memory.wf P s.mem
  idx : s.idx < 2 * P.n
  warm : s.warm ≤ P.n
  /-- Before the cold start ends, `IDX` counts the samples as `WARM` does and `HOP_PHASE` is 0 (R25). -/
  cold : s.warm < P.n → s.idx = s.warm ∧ s.hopPhase = 0
  hopPhase : s.hopPhase < P.h
  frameCnt : s.frameCnt < 500
  subPtr : s.subPtr < P.d
  subCnt : s.subCnt < P.v
  telemPhase : s.telemPhase < P.telemPeriod
  inFifo : s.inFifo.length ≤ P.inDepth
  outFifo : s.outFifo.length ≤ P.outDepth
  /-- Accept guaranteed room for the block's output words (R112). -/
  room : s.busy = true → s.outFifo.length + s.jobL.toNat ≤ P.outDepth
  job : s.jobX.length = s.jobL.toNat
  idle : s.busy = false → s.jobL = 0
  /-- Bits 31..9 of `ERR` are never set (R49, R281). -/
  err : s.err.toNat < 512

/-- The words of a configuration are in their ranges (R21). -/
structure Cfg.InRange (c : Cfg) : Prop where
  strength : F64.within (f64 c.strength) F64.zero F64.two = true
  sshape : F64.within (f64 c.sshape) (F64.neg F64.two) F64.two = true
  bshape : F64.within (f64 c.bshape) F64.zero F64.one = true
  gdepth : F64.within (f64 c.gdepth) F64.zero F64.one = true

/-- The words of the pending shadow are in their ranges, valid or not (R21, R23). -/
structure Pend.InRange (p : Pend) : Prop where
  strength : F64.within (f64 p.strength.value) F64.zero F64.two = true
  sshape : F64.within (f64 p.sshape.value) (F64.neg F64.two) F64.two = true
  bshape : F64.within (f64 p.bshape.value) F64.zero F64.one = true
  gdepth : F64.within (f64 p.gdepth.value) F64.zero F64.one = true

/-- Finite and at least `EPS`. -/
def atLeastEps (P : Params) (v : F64) : Prop := v.isFinite = true ∧ F64.ge v P.eps = true

/-- Every smoothed power and every subwindow minimum is finite and at least `EPS`: the part of R41 and
R160 that the guard of R151 secures. -/
def Memory.floored (P : Params) (m : Memory) : Prop :=
  (∀ v ∈ m.sig, atLeastEps P v) ∧ ∀ row ∈ m.submin, ∀ v ∈ row, atLeastEps P v

/-! ## Views -/

/-- The state without its telemetry (R37). -/
def State.forgetTelemetry (s : State) : State :=
  { s with telemGr := 0, telemFlat := 0, telemSeq := 0, telemPhase := 0 }

/-- The sequencer of `s` is what a counter of `c` samples since power-on gives (R25). -/
structure State.Counts (P : Params) (s : State) (c : Nat) : Prop where
  idx : s.idx = c % (2 * P.n)
  warm : s.warm = min c P.n
  hopPhase : s.hopPhase = if P.n ≤ c then (c - P.n) % P.h else 0

end Sys2Proof.Machine
end

