-- ==== Sys2Proof/Certificates/Slice0/Obligations.lean ====
section
/-! DEFINITION. The statements for the provers, in the order of OBLIGATIONS.json. A next state is written as the old
state with the fields that change: every other field is the same, which is the frame. NR-CORE has no byte
memory that an instruction stores to; its internal memories are the field `mem`. -/

open Sys2Proof Sys2Proof.Machine

/-! ## The configuration commands (file 48) -/

/-- R230: `NOP` with any payload changes nothing. -/
def Obligations.NopChangesNothing : Prop :=
  ∀ (p : Word) (s : State), exec (.nop p) s = .next s

/-- R231, R237: the two `BOOL` commands, legal payload and illegal payload. -/
def Obligations.BoolCommandsPendOrReject : Prop :=
  ∀ (p : Word) (s : State),
    (p.toNat ≤ 1 →
      exec (.setEnabled p) s
          = .next { s with pend := { s.pend with enabled := ⟨decide (p = 1), true⟩ } }
        ∧ exec (.setSmoother p) s
          = .next { s with pend := { s.pend with smoother := ⟨decide (p = 1), true⟩ } })
    ∧ (1 < p.toNat →
      exec (.setEnabled p) s = .next { s with err := s.err ||| 0x2 }
        ∧ exec (.setSmoother p) s = .next { s with err := s.err ||| 0x2 })

/-- R233, R234, R235 with the codes of R85: the three `ENUM` commands. -/
def Obligations.EnumCommandsPendOrReject : Prop :=
  ∀ (p : Word) (s : State),
    (p.toNat ≤ 1 →
      exec (.setProfile p) s
          = .next { s with pend := { s.pend with profile :=
              ⟨if p = 0 then .plain else .clarity, true⟩ } }
        ∧ exec (.setNemethod p) s
          = .next { s with pend := { s.pend with neMethod :=
              ⟨if p = 0 then .legacy else .advanced, true⟩ } })
    ∧ (1 < p.toNat →
      exec (.setProfile p) s = .next { s with err := s.err ||| 0x2 }
        ∧ exec (.setNemethod p) s = .next { s with err := s.err ||| 0x2 })
    ∧ (p.toNat ≤ 2 →
      exec (.setGainlaw p) s
        = .next { s with pend := { s.pend with gainLaw :=
            ⟨if p = 0 then .linear else if p = 1 then .logarithmic else .power, true⟩ } })
    ∧ (2 < p.toNat → exec (.setGainlaw p) s = .next { s with err := s.err ||| 0x2 })

/-- R232: a NaN is rejected, a word in [0, 2] is stored as it is, one above or below as the bound. -/
def Obligations.SetStrengthStoresTheClampedWord : Prop :=
  ∀ (p : Word) (s : State),
    (isNaN32 p = true → exec (.setStrength p) s = .next { s with err := s.err ||| 0x2 })
    ∧ (F64.within (f64 p) F64.zero F64.two = true →
      exec (.setStrength p) s = .next { s with pend := { s.pend with strength := ⟨p, true⟩ } })
    ∧ (F64.lt F64.two (f64 p) = true →
      exec (.setStrength p) s
        = .next { s with pend := { s.pend with strength := ⟨0x40000000, true⟩ } })
    ∧ (F64.lt (f64 p) F64.zero = true →
      exec (.setStrength p) s
        = .next { s with pend := { s.pend with strength := ⟨0x00000000, true⟩ } })

/-- R239: as for the strength, with the range [−2, 2]. -/
def Obligations.SetSshapeStoresTheClampedWord : Prop :=
  ∀ (p : Word) (s : State),
    (isNaN32 p = true → exec (.setSshape p) s = .next { s with err := s.err ||| 0x2 })
    ∧ (F64.within (f64 p) (F64.neg F64.two) F64.two = true →
      exec (.setSshape p) s = .next { s with pend := { s.pend with sshape := ⟨p, true⟩ } })
    ∧ (F64.lt F64.two (f64 p) = true →
      exec (.setSshape p) s
        = .next { s with pend := { s.pend with sshape := ⟨0x40000000, true⟩ } })
    ∧ (F64.lt (f64 p) (F64.neg F64.two) = true →
      exec (.setSshape p) s
        = .next { s with pend := { s.pend with sshape := ⟨0xC0000000, true⟩ } })

/-- R240: as for the strength, with the range [0, 1]. -/
def Obligations.SetBshapeStoresTheClampedWord : Prop :=
  ∀ (p : Word) (s : State),
    (isNaN32 p = true → exec (.setBshape p) s = .next { s with err := s.err ||| 0x2 })
    ∧ (F64.within (f64 p) F64.zero F64.one = true →
      exec (.setBshape p) s = .next { s with pend := { s.pend with bshape := ⟨p, true⟩ } })
    ∧ (F64.lt F64.one (f64 p) = true →
      exec (.setBshape p) s
        = .next { s with pend := { s.pend with bshape := ⟨0x3F800000, true⟩ } })
    ∧ (F64.lt (f64 p) F64.zero = true →
      exec (.setBshape p) s
        = .next { s with pend := { s.pend with bshape := ⟨0x00000000, true⟩ } })

/-- R241: as for the strength, with the range [0, 1]. -/
def Obligations.SetGdepthStoresTheClampedWord : Prop :=
  ∀ (p : Word) (s : State),
    (isNaN32 p = true → exec (.setGdepth p) s = .next { s with err := s.err ||| 0x2 })
    ∧ (F64.within (f64 p) F64.zero F64.one = true →
      exec (.setGdepth p) s = .next { s with pend := { s.pend with gdepth := ⟨p, true⟩ } })
    ∧ (F64.lt F64.one (f64 p) = true →
      exec (.setGdepth p) s
        = .next { s with pend := { s.pend with gdepth := ⟨0x3F800000, true⟩ } })
    ∧ (F64.lt (f64 p) F64.zero = true →
      exec (.setGdepth p) s
        = .next { s with pend := { s.pend with gdepth := ⟨0x00000000, true⟩ } })

/-- R236: `RESET` with any payload sets `RESET_PENDING` and nothing else. -/
def Obligations.ResetCommandOnlyMarksPending : Prop :=
  ∀ (p : Word) (s : State),
    exec (.reset p) s = .next { s with pend := { s.pend with resetPending := true } }

/-- R84: an invalid message, whatever the command, sets `BAD_VALUE` and nothing else. -/
def Obligations.InvalidMessageOnlySetsBadValue : Prop :=
  ∀ (i : Instr) (s : State), i.wellFormed = false → exec i s = .next { s with err := s.err ||| 0x2 }

/-- R238: a batch is any list of configuration commands, issued in an idle state with nothing pending. Every command of
it and the `PROCESS 0` after it complete; each field takes the last value issued for it and keeps its own if none
was; a `RESET` anywhere in the batch is applied once, after the fields; an invalid message leaves only
`BAD_VALUE`; nothing is pending afterwards and nothing else changes. -/
def Obligations.BatchAppliesLastWriterThenReset : Prop :=
  ∀ (batch : List Instr) (s : State), batch.all isConfiguration = true → s.busy = false →
    s.outFifo.length ≤ 4096 → s.pend.isEmpty = true →
    ∃ t u, issueAll batch s = .next t ∧ t.cfg = s.cfg ∧ t.mem = s.mem ∧ exec (.process 0) t = .next u
      ∧ u.pend.isEmpty = true
      ∧ u =
        let v := { s with
          cfg := {
            enabled := lastIssued Issued.enabled batch s.cfg.enabled
            strength := lastIssued Issued.strength batch s.cfg.strength
            profile := lastIssued Issued.profile batch s.cfg.profile
            neMethod := lastIssued Issued.neMethod batch s.cfg.neMethod
            gainLaw := lastIssued Issued.gainLaw batch s.cfg.gainLaw
            smoother := lastIssued Issued.smoother batch s.cfg.smoother
            sshape := lastIssued Issued.sshape batch s.cfg.sshape
            bshape := lastIssued Issued.bshape batch s.cfg.bshape
            gdepth := lastIssued Issued.gdepth batch s.cfg.gdepth }
          pend := u.pend
          err := if batch.all Instr.wellFormed then s.err else s.err ||| 0x2
          jobL := 0
          jobX := []
          busy := true }
        if batch.any isReset then resetAdaptive Config.params v else v

/-! ## PROCESS (R100, R101, R113) -/

/-- R100, R101, R238: the accept of a block when no reset is pending. -/
def Obligations.ProcessAcceptDrainsAndTakesSamples : Prop :=
  ∀ (l : Word) (s : State), s.busy = false → l.toNat ≤ s.inFifo.length →
    l.toNat + s.outFifo.length ≤ 4096 → s.pend.resetPending = false →
    exec (.process l) s = .next { s with
      cfg := {
        enabled := if s.pend.enabled.valid then s.pend.enabled.value else s.cfg.enabled
        strength := if s.pend.strength.valid then s.pend.strength.value else s.cfg.strength
        profile := if s.pend.profile.valid then s.pend.profile.value else s.cfg.profile
        neMethod := if s.pend.neMethod.valid then s.pend.neMethod.value else s.cfg.neMethod
        gainLaw := if s.pend.gainLaw.valid then s.pend.gainLaw.value else s.cfg.gainLaw
        smoother := if s.pend.smoother.valid then s.pend.smoother.value else s.cfg.smoother
        sshape := if s.pend.sshape.valid then s.pend.sshape.value else s.cfg.sshape
        bshape := if s.pend.bshape.valid then s.pend.bshape.value else s.cfg.bshape
        gdepth := if s.pend.gdepth.valid then s.pend.gdepth.value else s.cfg.gdepth }
      pend := {
        enabled := ⟨s.pend.enabled.value, false⟩
        strength := ⟨s.pend.strength.value, false⟩
        profile := ⟨s.pend.profile.value, false⟩
        neMethod := ⟨s.pend.neMethod.value, false⟩
        gainLaw := ⟨s.pend.gainLaw.value, false⟩
        smoother := ⟨s.pend.smoother.value, false⟩
        sshape := ⟨s.pend.sshape.value, false⟩
        bshape := ⟨s.pend.bshape.value, false⟩
        gdepth := ⟨s.pend.gdepth.value, false⟩
        resetPending := false }
      jobL := l
      jobX := s.inFifo.take l.toNat
      inFifo := s.inFifo.drop l.toNat
      busy := true }

/-- R238, R302: the accept of a block when a reset is pending. The rings, the sequencer, the output queue, the
latch, `ERR` and telemetry are kept; `HOLD` is the new profile's. -/
def Obligations.ProcessAcceptAppliesPendingReset : Prop :=
  ∀ (l : Word) (s : State), s.busy = false → l.toNat ≤ s.inFifo.length →
    l.toNat + s.outFifo.length ≤ 4096 → s.pend.resetPending = true →
    exec (.process l) s = .next { s with
      cfg := drainCfg s.pend s.cfg
      pend := s.pend.clear
      mem := { s.mem with
        sig := List.replicate 257 Config.eps
        noise := List.replicate 257 Config.eps
        lmin := List.replicate 257 Config.eps
        submin := List.replicate 8 (List.replicate 257 Config.eps)
        prevGain := List.replicate 257 F64.one
        fsg := List.replicate 257 F64.one }
      frameCnt := 0
      subPtr := 0
      subCnt := 0
      rawFlat := F64.zero
      sflat := F64.zero
      gateOpen := true
      hold := if (drainCfg s.pend s.cfg).profile = .plain then 9600 else 4800
      gateMult := F64.one
      jobL := l
      jobX := s.inFifo.take l.toNat
      inFifo := s.inFifo.drop l.toNat
      busy := true }

/-- R100, R282: a block turned away. Busy is checked first; nothing is drained and no sample is taken. On an instance
with other parameters the room is that of its own `OUT_DEPTH`. -/
def Obligations.ProcessTurnedAwayOnlySetsItsError : Prop :=
  ∀ (l : Word) (s : State),
    (s.busy = true → exec (.process l) s = .next { s with err := s.err ||| 0x8 })
    ∧ (s.busy = false → (s.inFifo.length < l.toNat ∨ 4096 < l.toNat + s.outFifo.length) →
      exec (.process l) s = .next { s with err := s.err ||| 0x4 })
    ∧ ∀ P : Params,
      (s.busy = true → issueInstr P (.process l) s = .next { s with err := s.err ||| 0x8 })
      ∧ (s.busy = false → (s.inFifo.length < l.toNat ∨ P.outDepth < l.toNat + s.outFifo.length) →
        issueInstr P (.process l) s = .next { s with err := s.err ||| 0x4 })
      ∧ (s.busy = false → l.toNat ≤ s.inFifo.length → l.toNat + s.outFifo.length ≤ P.outDepth →
        issueInstr P (.process l) s = .next (accept P l s))

/-- R113: an accepted block of length 0, from its accept to its completion, touches no sample, ring or
sequencer; it drains, runs the gate transition with length 0 and advances the telemetry phase when
enabled. -/
def Obligations.ProcessZeroTouchesNoSample : Prop :=
  ∀ (s : State), s.busy = false → s.outFifo.length ≤ 4096 → s.pend.resetPending = false →
    ∃ u, exec (.process 0) s = .next u ∧ u.busy = true ∧
      let t := engineTurn Config.params u
      t.busy = false ∧ t.cfg = drainCfg s.pend s.cfg ∧ t.inFifo = s.inFifo ∧ t.outFifo = s.outFifo
      ∧ t.mem = s.mem ∧ t.idx = s.idx ∧ t.warm = s.warm ∧ t.hopPhase = s.hopPhase
      ∧ t.gateMult = s.gateMult ∧ t.err = s.err
      ∧ (F64.lt s.sflat (threshold Config.params u.cfg) = true →
          t.gateOpen = true ∧ t.hold = if u.cfg.profile = .plain then 9600 else 4800)
      ∧ (F64.lt s.sflat (threshold Config.params u.cfg) = false →
          t.hold = s.hold ∧ t.gateOpen = (s.gateOpen && decide (s.hold ≠ 0)))
      ∧ (t.telemPhase = if u.cfg.enabled then (s.telemPhase + 1) % 4 else s.telemPhase)

/-! ## Encoding (file 30) -/

/-- R81, R88: the decoder gives back every command, with every payload, and so do the two halves as they travel
over the bus (R63) and the table's numbering. -/
def Obligations.DecodeOfEncodeIsTheCommand : Prop :=
  ∀ (i : Instr), decode (encode i) = .instr i
    ∧ decode (commandWord (encodeHi i) (encodeLo i)) = .instr i
    ∧ decodeTableWord 64 (encode i).toNat = some i

/-- R81, R82: a word that decodes to a command is that command's word: no two words mean the same command. -/
def Obligations.EncodeOfDecodedWordIsTheWord : Prop :=
  ∀ (c : CmdWord) (i : Instr), decode c = .instr i → encode i = c

/-- R82, R88, R89: the decoder refuses exactly the words with a non-zero reserved field and those with an opcode
0x0B to 0x0F or 0x11 to 0xFF. -/
def Obligations.DecodeRefusesExactlyTheReservedWords : Prop :=
  ∀ (c : CmdWord), (∃ w, decode c = .illegal w) ↔
    (c.toNat / 2 ^ 32 % 2 ^ 24 ≠ 0
      ∨ (0x0B ≤ c.toNat / 2 ^ 56 ∧ c.toNat / 2 ^ 56 ≤ 0x0F)
      ∨ (0x11 ≤ c.toNat / 2 ^ 56 ∧ c.toNat / 2 ^ 56 ≤ 0xFF))

/-- R82, R89: the write of `CMD_HI` that forms such a word sets `ILLEGAL_CMD` and does nothing else. -/
def Obligations.IllegalCommandOnlySetsIllegalCmd : Prop :=
  ∀ (v : Word) (s : State),
    (v.toNat % 2 ^ 24 ≠ 0
      ∨ (0x0B ≤ v.toNat / 2 ^ 24 ∧ v.toNat / 2 ^ 24 ≤ 0x0F)
      ∨ (0x11 ≤ v.toNat / 2 ^ 24 ∧ v.toNat / 2 ^ 24 ≤ 0xFF)) →
    memWrite Config.params 0x014 4 v s = .next { s with err := s.err ||| 0x1 }

/-- R93: the table of encoding examples, as source text, as the two words, and decoded. -/
def Obligations.EncodingExamplesOfTheTable : Prop :=
  ∀ row ∈ [("NOP", Instr.nop 0, (0x00000000 : Word), (0x00000000 : Word)),
           ("SET.ENABLED 1", .setEnabled 1, 0x01000000, 0x00000001),
           ("SET.STRENGTH 2.0", .setStrength 0x40000000, 0x02000000, 0x40000000),
           ("RESET", .reset 0, 0x03000000, 0x00000000),
           ("SET.PROFILE clarity", .setProfile 1, 0x04000000, 0x00000001),
           ("SET.NEMETHOD advanced", .setNemethod 1, 0x05000000, 0x00000001),
           ("SET.GAINLAW logarithmic", .setGainlaw 1, 0x06000000, 0x00000001),
           ("SET.SMOOTHER 0", .setSmoother 0, 0x07000000, 0x00000000),
           ("SET.SSHAPE -2.0", .setSshape 0xC0000000, 0x08000000, 0xC0000000),
           ("SET.BSHAPE 0.5", .setBshape 0x3F000000, 0x09000000, 0x3F000000),
           ("SET.GDEPTH 1.0", .setGdepth 0x3F800000, 0x0A000000, 0x3F800000),
           ("PROCESS 128", .process 0x80, 0x10000000, 0x00000080)],
    encodeHi row.2.1 = row.2.2.1 ∧ encodeLo row.2.1 = row.2.2.2
      ∧ decode (commandWord row.2.2.1 row.2.2.2) = .instr row.2.1
      ∧ assemble row.1 = some (.accesses [wr32 0x010 row.2.2.2, wr32 0x014 row.2.2.1])

/-- R92, R263: the two accesses of a command load the latch and issue it.
That the environment's events stand in `agenda` is the model's choice (log entry 1). -/
def Obligations.CommandAccessesIssueTheCommand : Prop :=
  ∀ (i : Instr) (s : State) (rest : List Event), s.agenda = commandEvents i ++ rest →
    runSteps 2 s = exec i { s with cmdLo := i.payload, agenda := rest }

/-- R82, R263: when the next access writes `CMD_HI` and the word formed with the latch decodes to a command, the step
is that command's meaning in the state with the access gone; the latch is kept.
That the environment's events stand in `agenda` is the model's choice (log entry 1). -/
def Obligations.StepRunsTheDecodedCommand : Prop :=
  ∀ (s : State) (rest : List Event) (v : Word) (i : Instr),
    s.agenda = .write (.window 0x014) 4 v :: rest → decode (commandWord v s.cmdLo) = .instr i →
    step s = exec i { s with agenda := rest }

/-! ## Host accesses (files 10 §11, 20, 49) -/

/-- R64: an access of another width or at an offset that is no multiple of 4. -/
def Obligations.BadAccessOnlySetsBadAccess : Prop :=
  ∀ (P : Params) (o : BitVec 12) (size : Nat) (v : Word) (s : State),
    (size ≠ 4 ∨ o.toNat % 4 ≠ 0) →
    memRead P o size s = (0x00000000, { s with err := s.err ||| 0x100 })
      ∧ memWrite P o size v s = .next { s with err := s.err ||| 0x100 }

/-- R55: the reserved offsets 0x04C to 0xFFC. -/
def Obligations.ReservedOffsetsReadZeroIgnoreWrites : Prop :=
  ∀ (P : Params) (o : BitVec 12) (v : Word) (s : State), 0x04C ≤ o.toNat → o.toNat % 4 = 0 →
    memRead P o 4 s = (0x00000000, s) ∧ memWrite P o 4 v s = .next s

/-- R66, R261: a good read of any register but `OUT_DATA` changes nothing, and so does a good write of any
register but `ERR`, `CMD_LO`, `CMD_HI` and `IN_DATA`. -/
def Obligations.PlainAccessesChangeNothing : Prop :=
  ∀ (P : Params) (o : BitVec 12) (v : Word) (s : State), o.toNat % 4 = 0 →
    (o.toNat ≠ 0x01C → (memRead P o 4 s).2 = s)
    ∧ (o.toNat ≠ 0x00C → o.toNat ≠ 0x010 → o.toNat ≠ 0x014 → o.toNat ≠ 0x018 →
        memWrite P o 4 v s = .next s)

/-- R262: a good write of `ERR` clears exactly the bits 0 to 8 written as 1. -/
def Obligations.ErrWriteClearsExactlyTheWrittenOnes : Prop :=
  ∀ (P : Params) (v : Word) (s : State), ∃ e : Word,
    memWrite P 0x00C 4 v s = .next { s with err := e }
      ∧ ∀ n : Nat, e.getLsbD n = (s.err.getLsbD n && !(decide (n < 9) && v.getLsbD n))

/-- R264: a write of `IN_DATA` appends the word as it is, or drops it with `IN_OVF` when the queue is full, busy
or not. -/
def Obligations.PushAppendsOrOverflows : Prop :=
  ∀ (P : Params) (v : Word) (s : State),
    (s.inFifo.length < P.inDepth →
      memWrite P 0x018 4 v s = .next { s with inFifo := s.inFifo ++ [v] })
    ∧ (s.inFifo.length = P.inDepth →
      memWrite P 0x018 4 v s = .next { s with err := s.err ||| 0x10 })

/-- R265: a read of `OUT_DATA` takes the oldest word, or gives 0 with `OUT_UNF` when the queue is empty. -/
def Obligations.PopTakesTheOldestOrUnderflows : Prop :=
  ∀ (P : Params) (s : State),
    (∀ w rest, s.outFifo = w :: rest → memRead P 0x01C 4 s = (w, { s with outFifo := rest }))
    ∧ (s.outFifo = [] → memRead P 0x01C 4 s = (0x00000000, { s with err := s.err ||| 0x20 }))

/-- R260 with R46 to R54: what every readable register but `OUT_DATA` shows, in every state: each bit of `STATUS`,
`ACTIVE_CFG` and `PENDING`, and the word of each other register. -/
def Obligations.PackedRegistersShowTheirBits : Prop :=
  ∀ (P : Params) (s : State),
    (∀ n : Nat,
      (memRead P 0x008 4 s).1.getLsbD n
          = (decide (n = 0) && s.busy || decide (n = 1) && decide (s.warm = P.n)
              || decide (n = 2) && s.gateOpen)
        ∧ (memRead P 0x034 4 s).1.getLsbD n
          = (decide (n = 0) && s.cfg.enabled || decide (n = 1) && decide (s.cfg.profile = .clarity)
              || decide (n = 2) && decide (s.cfg.neMethod = .advanced)
              || decide (n = 3) && decide (s.cfg.gainLaw = .logarithmic)
              || decide (n = 4) && decide (s.cfg.gainLaw = .power) || decide (n = 5) && s.cfg.smoother)
        ∧ (memRead P 0x048 4 s).1.getLsbD n
          = (decide (n = 1) && s.pend.enabled.valid || decide (n = 2) && s.pend.strength.valid
              || decide (n = 3) && s.pend.resetPending || decide (n = 4) && s.pend.profile.valid
              || decide (n = 5) && s.pend.neMethod.valid || decide (n = 6) && s.pend.gainLaw.valid
              || decide (n = 7) && s.pend.smoother.valid || decide (n = 8) && s.pend.sshape.valid
              || decide (n = 9) && s.pend.bshape.valid || decide (n = 10) && s.pend.gdepth.valid))
    ∧ memRead P 0x000 4 s = (0x4E520001, s)
    ∧ (memRead P 0x004 4 s).1.toNat
        = P.v % 256 * 2 ^ 24 + P.d % 256 * 2 ^ 16 + P.h.log2 % 256 * 2 ^ 8 + P.n.log2 % 256
    ∧ memRead P 0x00C 4 s = (s.err &&& 0x000001FF, s)
    ∧ memRead P 0x010 4 s = (s.cmdLo, s)
    ∧ memRead P 0x014 4 s = (0, s)
    ∧ memRead P 0x018 4 s = (0, s)
    ∧ memRead P 0x020 4 s = (BitVec.ofNat 32 s.inFifo.length, s)
    ∧ memRead P 0x024 4 s = (BitVec.ofNat 32 s.outFifo.length, s)
    ∧ memRead P 0x028 4 s = (s.telemGr, s)
    ∧ memRead P 0x02C 4 s = (s.telemFlat, s)
    ∧ memRead P 0x030 4 s = (s.telemSeq, s)
    ∧ memRead P 0x038 4 s = (s.cfg.strength, s)
    ∧ memRead P 0x03C 4 s = (s.cfg.sshape, s)
    ∧ memRead P 0x040 4 s = (s.cfg.bshape, s)
    ∧ memRead P 0x044 4 s = (s.cfg.gdepth, s)

/-- R303: what the host reads after power-on reset, for the reference parameters. -/
def Obligations.RegistersAfterReset : Prop :=
  (∀ r ∈ [((0x000 : BitVec 12), (0x4E520001 : Word)), (0x004, 0x0C080709), (0x008, 0x00000004),
          (0x00C, 0), (0x010, 0), (0x014, 0), (0x018, 0), (0x020, 0), (0x024, 0), (0x028, 0),
          (0x02C, 0), (0x030, 0), (0x034, 0x00000030), (0x038, 0x3F800000), (0x03C, 0x00000000),
          (0x040, 0x3F000000), (0x044, 0x00000000), (0x048, 0)],
      memRead Config.params r.1 4 State.reset = (r.2, State.reset))
    ∧ (∀ o : BitVec 12, 0x04C ≤ o.toNat → o.toNat % 4 = 0 →
        (memRead Config.params o 4 State.reset).1 = 0)
    ∧ memRead Config.params 0x01C 4 State.reset = (0, { State.reset with err := 0x20 })

/-- R67: an access at a bus address outside `[BASE, BASE + 0x1000)` is refused; inside, it reaches the offset
`addr − BASE`.
The refusal is the model's choice for what the spec says nothing of (log entry 8). -/
def Obligations.AccessesOutsideTheWindowAreRefused : Prop :=
  (∀ (addr size : Nat) (v : Word) (s : State) (rest : List Event),
      (addr < Config.base ∨ Config.base + 0x1000 ≤ addr) →
      (s.agenda = readAt Config.params addr size :: rest
        ∨ s.agenda = writeAt Config.params addr size v :: rest) →
      step s = .refused .outsideWindow)
    ∧ ∀ (k size : Nat) (v : Word), k < 0x1000 →
      readAt Config.params (Config.base + k) size = .read (.window (BitVec.ofNat 12 k)) size
        ∧ writeAt Config.params (Config.base + k) size v = .write (.window (BitVec.ofNat 12 k)) size v

/-- R280, R283: as long as the accesses stay in the window, every step goes on, and they still do. -/
def Obligations.InWindowStepsAlwaysGoOn : Prop :=
  ∀ (s : State), s.inWindow = true → ∃ t, step s = .next t ∧ t.inWindow = true

/-! ## The block (file 40) -/

/-- R102, R112, R22: the engine's turn completes the block in flight: as many output words as the block has
input words are queued, the job ends, and the configuration, the shadow, the input queue, the latch and the
word last read are as before.
That an empty `agenda` is the engine's turn is the model's choice (log entry 1). -/
def Obligations.EngineTurnCompletesTheBlock : Prop :=
  ∀ (s : State), s.busy = true → s.agenda = [] →
    ∃ t outs, step s = .next t ∧ outs.length = s.jobX.length ∧ t.outFifo = s.outFifo ++ outs
      ∧ t.busy = false ∧ t.jobL = 0 ∧ t.jobX = [] ∧ t.cfg = s.cfg ∧ t.pend = s.pend
      ∧ t.inFifo = s.inFifo ∧ t.cmdLo = s.cmdLo ∧ t.busData = s.busData ∧ t.agenda = []

/-- R108: while disabled, output word `i` of a run of samples is the input word of N samples earlier, bit for bit;
for the first N it is what the input ring held N steps ahead of the write position. -/
def Obligations.BypassDelaysByExactlyN : Prop :=
  ∀ (P : Params) (xs : List Word) (s : State), 0 < P.n → s.mem.inRing.length = 2 * P.n →
    s.cfg.enabled = false →
    ∀ i < xs.length, (runSamples P xs s).2[i]?
      = some (if i < P.n then s.mem.inRing.getD ((s.idx + i + P.n) % (2 * P.n)) 0
              else xs.getD (i - P.n) 0)

/-- R109: while enabled, every output word of the first N samples since power-on is the input word; `WARM` counts up
to N and a reset keeps it, so the cold start happens once. -/
def Obligations.ColdStartPassesInputThrough : Prop :=
  ∀ (P : Params) (xs : List Word) (s : State), s.warm ≤ P.n →
    (s.cfg.enabled = true → ∀ i < xs.length, s.warm + i < P.n → (runSamples P xs s).2[i]? = xs[i]?)
    ∧ (runSamples P xs s).1.warm = min (s.warm + xs.length) P.n
    ∧ (resetAdaptive P s).warm = s.warm

/-- R107, R110, R116: on the processed path an output word is finite, or it is the bypass word and `STATE_GUARD`
is set. -/
def Obligations.ProcessedOutputIsFiniteOrBypass : Prop :=
  ∀ (P : Params) (x : Word) (s : State), s.cfg.enabled = true → P.n ≤ s.warm →
    (f64 (sampleStep P x s).2).isFinite = true
      ∨ ((sampleStep P x s).2 = inRead P (sampleStep P x s).1 (s.idx + P.n)
          ∧ (sampleStep P x s).1.err.getLsbD 7 = true)

/-- R25, R104: the sequencer after power-on is that of the counter 0; a sample step takes that of `c` to that of
`c + 1`, and emits a frame exactly when `c + 1 ≥ N` and `(c + 1 − N) mod H = 0`. -/
def Obligations.SequencerFollowsTheSampleCounter : Prop :=
  ∀ (P : Params), 0 < P.n → 0 < P.h →
    State.Counts P (State.por P) 0
    ∧ ∀ (s : State) (c : Nat) (x : Word), State.Counts P s c →
      State.Counts P (sampleStep P x s).1 (c + 1)
        ∧ frameDue P s = decide (P.n ≤ c + 1 ∧ (c + 1 - P.n) % P.h = 0)

/-- R106, R128: an overlap-add adds element `i`, scaled, to cell `(base + i) mod 2N` and leaves every other cell;
a sample step leaves +0.0 in the cell it drained. -/
def Obligations.OutputRingIsAccumulatedAndDrained : Prop :=
  (∀ (P : Params) (base : Nat) (z : Spectrum) (s : State), 0 < P.n →
      s.mem.outRing.length = 2 * P.n →
      (∀ i < P.n, outRead P (overlapAdd P base z s) (base + i)
          = F64.add (outRead P s (base + i)) (F64.mul (elem z.re i) (olaScale P)))
      ∧ ∀ j, (∀ i < P.n, j % (2 * P.n) ≠ (base + i) % (2 * P.n)) →
          outRead P (overlapAdd P base z s) j = outRead P s j)
    ∧ ∀ (P : Params) (x : Word) (s : State), Memory.wf P s.mem → 0 < P.n →
      outRead P (sampleStep P x s).1 s.idx = F64.zero

/-- R266, R311: the host callback as bus accesses: L pushes, `PROCESS L`, any number of `STATUS` reads that find the
block busy, the engine's turn, one that finds it idle, then L pops. It gives exactly L words, in the order
they are read, and leaves both queues empty.
That the environment's events stand in `agenda` is the model's choice (log entry 1). -/
def Obligations.CallbackReturnsAnEqualLengthBlock : Prop :=
  ∀ (xs : List Word) (polls : Nat) (s : State), xs.length ≤ 4096 → s.busy = false →
    s.inFifo = [] → s.outFifo = [] →
    s.agenda = xs.map (wr32 offInData) ++ commandEvents (.process (BitVec.ofNat 32 xs.length))
      ++ List.replicate polls (rd32 offStatus) ++ [.engine, rd32 offStatus]
      ++ List.replicate xs.length (rd32 offOutData) →
    ∃ ys : List Word, ys.length = xs.length
      ∧ (∀ k < polls, ∃ t, runSteps (xs.length + 2 + (k + 1)) s = .next t
          ∧ t.busData.getLsbD 0 = true)
      ∧ (∃ t, runSteps (xs.length + 2 + polls + 2) s = .next t
          ∧ t.busData.getLsbD 0 = false ∧ t.busy = false ∧ t.inFifo = [] ∧ t.outFifo = ys)
      ∧ ∀ k < xs.length, ∃ t,
          runSteps (xs.length + 2 + polls + 2 + (k + 1)) s = .next t
            ∧ some t.busData = ys[k]? ∧ t.outFifo = ys.drop (k + 1) ∧ t.inFifo = []

/-- R320, R321, R92: however often the host polls, the block in flight is completed once the engine gets its turn:
`WAIT` ends.
That an empty `agenda` is the engine's turn is the model's choice (log entry 1). -/
def Obligations.WaitEnds : Prop :=
  ∀ (s : State) (polls : Nat), s.busy = true → s.agenda = List.replicate polls (rd32 offStatus) →
    (∀ k < polls, ∃ t, runSteps (k + 1) s = .next t ∧ waitEnds t = false)
    ∧ ∃ t, runSteps (polls + 1) s = .next t ∧ t.busy = false
      ∧ (memRead Config.params 0x008 4 t).1.getLsbD 0 = false

/-- R71, R311: a host access made while a block is in flight changes nothing the block reads or writes but the sticky
error bits and, by a pop, the output queue: a read shows the state from before the block.
That the environment's events stand in `agenda` is the model's choice (log entry 1). -/
def Obligations.HostAccessesWhileBusyLeaveTheBlock : Prop :=
  ∀ (s t : State) (e : Event) (rest : List Event), s.busy = true → s.agenda = e :: rest →
    e.isHost = true → step s = .next t →
    t.busy = true ∧ t.jobL = s.jobL ∧ t.jobX = s.jobX ∧ t.cfg = s.cfg ∧ t.mem = s.mem
      ∧ t.idx = s.idx ∧ t.warm = s.warm ∧ t.hopPhase = s.hopPhase ∧ t.frameCnt = s.frameCnt
      ∧ t.subPtr = s.subPtr ∧ t.subCnt = s.subCnt ∧ t.rawFlat = s.rawFlat ∧ t.sflat = s.sflat
      ∧ t.gateOpen = s.gateOpen ∧ t.hold = s.hold ∧ t.gateMult = s.gateMult
      ∧ t.telemGr = s.telemGr ∧ t.telemFlat = s.telemFlat ∧ t.telemSeq = s.telemSeq
      ∧ t.telemPhase = s.telemPhase ∧ (t.outFifo = s.outFifo ∨ t.outFifo = s.outFifo.tail)

/-! ## The pipeline (files 41 to 46) -/

/-- R122: every sample enters the analysis finite, as itself when it is and as +0.0 when it is not, and the frame
sets `NONFINITE_IN` exactly then. -/
def Obligations.NonfiniteSamplesEnterAsZero : Prop :=
  ∀ (P : Params) (start : Nat) (s : State),
    (∀ i < P.n, ∃ x : F64, x.isFinite = true
      ∧ elem (extractAndWindow P start s).re i = F64.mul x (win P i)
      ∧ ((f64 (inRead P s (start + i))).isFinite = true → x = f64 (inRead P s (start + i)))
      ∧ ((f64 (inRead P s (start + i))).isFinite = false → x = F64.zero))
    ∧ (s.err.getLsbD 6 = false →
        ((frameAnalysis P start s).2.2.err.getLsbD 6 = true
          ↔ ∃ i < P.n, (f64 (inRead P s (start + i))).isFinite = false))

/-- R126, R203: after the gains, the equalizer and the Hermitian rebuild, bins 0 and N/2 are real and bin N−k is
the exact conjugate of bin k, with the same gain and factor. -/
def Obligations.MirroredBinsGetTheSameGain : Prop :=
  ∀ (P : Params) (p : Profile) (g : List F64) (z : Spectrum) (m : Nat), P.n = 2 * m → 0 < m →
    z.re.length = P.n → z.im.length = P.n →
    let y := rebuildHermitian P (applyGainAndEq P p g z)
    elem y.im 0 = F64.zero ∧ elem y.im m = F64.zero
      ∧ (∀ k ≤ m, elem y.re k = F64.mul (F64.mul (elem z.re k) (elem g k)) (eqt P p k))
      ∧ ∀ k, 1 ≤ k → k < m →
        elem y.im k = F64.mul (F64.mul (elem z.im k) (elem g k)) (eqt P p k)
          ∧ elem y.re (P.n - k) = elem y.re k ∧ elem y.im (P.n - k) = F64.neg (elem y.im k)

/-- R201, R202: the reference bands, and factor 1.0 at every bin outside the bands of the profile. -/
def Obligations.EqualizerBandsAndNeutralBins : Prop :=
  (Config.params.eqBands .plain).map (fun b => (b.lo, b.hi)) = [(0, 1), (9, 21), (107, 149)]
    ∧ (Config.params.eqBands .clarity).map (fun b => (b.lo, b.hi)) = [(13, 85)]
    ∧ ∀ (P : Params) (p : Profile) (k : Nat), (∀ b ∈ P.eqBands p, k < b.lo ∨ b.hi < k) →
      eqt P p k = F64.one

/-- R150, R152, R153, R154: a legacy frame: the counter; the minimum of each bin from its new smoothed power: hard
reset, snap down or creep; the noise estimate from twice the new minimum. -/
def Obligations.LegacyMinimumOfABin : Prop :=
  ∀ (P : Params) (pw : List F64) (s : State) (k : Nat), s.cfg.neMethod = .legacy → k < P.nb →
    let t := noiseUpdate P pw s
    t.frameCnt = (s.frameCnt + 1) % 500
      ∧ elem t.mem.sig k = guardValue P (F64.add (F64.mul (F64.lit 98 2) (elem s.mem.sig k))
          (F64.mul (F64.sub F64.one (F64.lit 98 2)) (elem pw k)))
      ∧ elem t.mem.lmin k =
        (if s.frameCnt % 500 = 499 then elem t.mem.sig k
        else if F64.lt (elem t.mem.sig k) (elem s.mem.lmin k) then elem t.mem.sig k
        else F64.add (F64.mul (F64.lit 9999 4) (elem s.mem.lmin k))
          (F64.mul (F64.lit 1 4) (elem t.mem.sig k)))
      ∧ elem t.mem.noise k = F64.max
          (F64.add (F64.mul (F64.lit 995 3) (elem s.mem.noise k))
            (F64.mul (F64.sub F64.one (F64.lit 995 3)) (F64.mul F64.two (elem t.mem.lmin k))))
          P.eps

/-- R157, R158: an advanced frame: the smoothed power of a bin; the tracked minimum of the active subwindow is the
smaller of its old value and the new smoothed power, so it never increases within a subwindow; the other
subwindows are kept. The frame that ends a subwindow does the same and then seeds the next one with the smoothed
power. -/
def Obligations.SubwindowMinimaOfAFrame : Prop :=
  ∀ (P : Params) (pw : List F64) (s : State) (k : Nat), s.cfg.neMethod = .advanced → k < P.nb →
    s.subPtr < P.d → s.mem.submin.length = P.d →
    let t := noiseUpdate P pw s
    let alpha := F64.add (F64.lit 80 2)
      (F64.mul (F64.lit 19 2) (F64.div (F64.add (f64 s.cfg.sshape) F64.two) (F64.lit 4 0)))
    let low := F64.min (subminAt s.mem.submin s.subPtr k) (elem t.mem.sig k)
    t.frameCnt = (s.frameCnt + 1) % 500
    ∧ elem t.mem.sig k = guardValue P (F64.add (F64.mul alpha (elem s.mem.sig k))
        (F64.mul (F64.sub F64.one alpha) (elem pw k)))
    ∧ (s.subCnt + 1 ≠ P.v →
      t.subPtr = s.subPtr ∧ t.subCnt = s.subCnt + 1
      ∧ subminAt t.mem.submin s.subPtr k = low
      ∧ F64.lt (subminAt s.mem.submin s.subPtr k) (subminAt t.mem.submin s.subPtr k) = false
      ∧ F64.lt (elem t.mem.sig k) (subminAt t.mem.submin s.subPtr k) = false
      ∧ ∀ d, d ≠ s.subPtr → subminAt t.mem.submin d k = subminAt s.mem.submin d k)
    ∧ (s.subCnt + 1 = P.v →
      t.subPtr = (s.subPtr + 1) % P.d ∧ t.subCnt = 0
      ∧ subminAt t.mem.submin t.subPtr k = elem t.mem.sig k
      ∧ (s.subPtr ≠ t.subPtr → subminAt t.mem.submin s.subPtr k = low)
      ∧ ∀ d, d ≠ s.subPtr → d ≠ t.subPtr → subminAt t.mem.submin d k = subminAt s.mem.submin d k)

/-- R159: the minimum of the minima of a bin is one of them and none is below it, where none is a NaN; and the noise
estimate of an advanced frame is the bias times the minimum of the minima the frame leaves, at least `EPS`. -/
def Obligations.MinimumOfMinimaIsTheLeast : Prop :=
  (∀ (P : Params) (rows : List (List F64)) (k : Nat), 0 < P.d →
      (∀ d < P.d, (subminAt rows d k).isNaN = false) →
      (∃ d < P.d, minOfMinima P rows k = subminAt rows d k)
        ∧ ∀ d < P.d, F64.lt (subminAt rows d k) (minOfMinima P rows k) = false)
    ∧ ∀ (P : Params) (pw : List F64) (s : State) (k : Nat), s.cfg.neMethod = .advanced → k < P.nb →
      let t := noiseUpdate P pw s
      elem t.mem.noise k = F64.max
        (F64.mul (F64.add (F64.lit 15 1) (F64.mul F64.two (f64 s.cfg.bshape))) (minOfMinima P t.mem.submin k))
        P.eps

/-- R150, R192: over a whole block, the private state of the strategy not selected is kept, and so is `FSG` while
the smoother is off. -/
def Obligations.UnselectedStateIsFrozen : Prop :=
  ∀ (P : Params) (s : State),
    let t := engineBlock P s
    (s.cfg.neMethod = .legacy →
      t.mem.submin = s.mem.submin ∧ t.subPtr = s.subPtr ∧ t.subCnt = s.subCnt)
    ∧ (s.cfg.neMethod = .advanced → t.mem.lmin = s.mem.lmin)
    ∧ (s.cfg.smoother = false → t.mem.fsg = s.mem.fsg)

/-- R176, R177: the smoothed gain lies between the floor and 1.0 where it is a number, and at strength 0 the blended
gain is exactly 1.0. -/
def Obligations.GainsStayInTheirRange : Prop :=
  (∀ (c : Cfg) (prev g : F64),
      (F64.add (F64.mul (smoothWeight c) prev)
        (F64.mul (F64.sub F64.one (smoothWeight c)) g)).isNaN = false →
      F64.ge F64.one (gainFloor c) = true →
      F64.within (smoothedGain c prev g) (gainFloor c) F64.one = true)
    ∧ ∀ (c : Cfg) (gs : F64), (c.strength = 0x00000000 ∨ c.strength = 0x80000000) →
      gs.isFinite = true → blendedGain c gs = F64.one

/-! ## The gate, the output stage and telemetry (file 47) -/

/-- R211: the gate transition, as it stands after the block. -/
def Obligations.GateTransitionOfABlock : Prop :=
  ∀ (P : Params) (s : State),
    let t := engineBlock P s
    let thr := F64.sub P.baseThr (F64.mul P.thrK (effect s.cfg))
    (F64.lt s.sflat thr = true → t.gateOpen = true ∧ t.hold = P.holdSamples s.cfg.profile)
    ∧ (F64.lt s.sflat thr = false →
      t.hold.toNat = s.hold.toNat - s.jobL.toNat
        ∧ t.gateOpen = (s.gateOpen && decide (s.jobL.toNat < s.hold.toNat)))

/-- R213: with depth 0 (either zero) a gate multiplier at 1.0 stays at exactly 1.0 over any block, in both gate
states.
That an empty `agenda` is the engine's turn is the model's choice (log entry 1). -/
def Obligations.GateStaysAtOneWithDepthZero : Prop :=
  ∀ (s : State), s.busy = true → s.agenda = [] →
    (s.cfg.gdepth = 0x00000000 ∨ s.cfg.gdepth = 0x80000000) → s.gateMult = F64.one →
    ∃ t, step s = .next t ∧ t.gateMult = F64.one

/-- R215: the limiter passes values up to 0.9 in magnitude, takes a greater magnitude to 0.9 plus 0.3 times the excess
with the sign of the value, and is odd. -/
def Obligations.LimiterPassesSmallValuesAndIsOdd : Prop :=
  ∀ (v : F64), v.isNaN = false →
    (F64.ge (F64.lit 9 1) v.abs = true → limiter v = v)
    ∧ (F64.lt (F64.lit 9 1) v.abs = true →
      limiter v = F64.mul (if v.isNeg then F64.neg F64.one else F64.one)
        (F64.add (F64.lit 9 1) (F64.mul (F64.sub v.abs (F64.lit 9 1)) (F64.lit 3 1))))
    ∧ limiter (F64.neg v) = F64.neg (limiter v)

/-- R220: the telemetry after a block: nothing while disabled; else the phase advances, and every
`TELEM_PERIOD`-th block writes a record. -/
def Obligations.TelemetryOfABlock : Prop :=
  ∀ (P : Params) (s : State),
    let t := engineBlock P s
    (s.cfg.enabled = false →
      t.telemPhase = s.telemPhase ∧ t.telemGr = s.telemGr ∧ t.telemFlat = s.telemFlat
        ∧ t.telemSeq = s.telemSeq)
    ∧ (s.cfg.enabled = true →
      t.telemPhase = (s.telemPhase + 1) % P.telemPeriod
      ∧ (t.telemPhase = 0 → t.telemGr = r32 (F64.sub F64.one t.gateMult) ∧ t.telemFlat = r32 t.sflat
          ∧ t.telemSeq = s.telemSeq + 1)
      ∧ (t.telemPhase ≠ 0 → t.telemGr = s.telemGr ∧ t.telemFlat = s.telemFlat
          ∧ t.telemSeq = s.telemSeq))

/-- R221: two states that differ at most in telemetry step to two states that differ at most in telemetry, unless
the step is a host read of a telemetry register. -/
def Obligations.TelemetryNeverFeedsBack : Prop :=
  ∀ (s s' t : State), s.forgetTelemetry = s'.forgetTelemetry →
    (∀ e rest, s.agenda = e :: rest → e.readsTelemetry = false) → step s = .next t →
    ∃ t', step s' = .next t' ∧ t.forgetTelemetry = t'.forgetTelemetry

/-! ## Errors, resets and invariants (files 60, 70, 10 §10) -/

/-- R281, R262: an error bit that is set stays set over every step but a power-on reset and a good write of
`ERR`. -/
def Obligations.ErrBitsAreSticky : Prop :=
  ∀ (s t : State) (n : Nat), step s = .next t →
    (∀ e rest, s.agenda = e :: rest → e ≠ .powerOn ∧ e.writesErr = false) →
    s.err.getLsbD n = true → t.err.getLsbD n = true

/-- R22: the configuration changes only by the drain at the accept of a `PROCESS` and by power-on reset. -/
def Obligations.OnlyAcceptAndPowerOnWriteConfiguration : Prop :=
  ∀ (s t : State), step s = .next t →
    t.cfg = s.cfg
      ∨ (∃ rest, s.agenda = .powerOn :: rest ∧ t.cfg = Cfg.por)
      ∨ (∃ v l rest, s.agenda = .write (.window 0x014) 4 v :: rest
          ∧ decode (commandWord v s.cmdLo) = .instr (.process l) ∧ s.busy = false ∧ t.busy = true
          ∧ t.cfg = drainCfg s.pend s.cfg)

/-- R300, R301: power-on reset puts every piece of state at its reset value, from any state; no other step moves
`WARM` down, and no host access moves the sequencer or writes a ring.
What the step keeps, `agenda` and `busData`, are the model's own fields (log entries 1, 2 and 16). -/
def Obligations.PowerOnResetsEverythingAndAloneRestarts : Prop :=
  (∀ (s : State) (rest : List Event), s.agenda = .powerOn :: rest →
      step s = .next { State.reset with agenda := rest, busData := s.busData })
    ∧ ∀ (s t : State), step s = .next t → (∀ rest, s.agenda ≠ .powerOn :: rest) →
      s.warm ≤ t.warm
      ∧ ((∃ e rest, s.agenda = e :: rest ∧ e.isHost = true) →
        t.warm = s.warm ∧ t.idx = s.idx ∧ t.hopPhase = s.hopPhase
          ∧ t.mem.inRing = s.mem.inRing ∧ t.mem.outRing = s.mem.outRing)

/-- R24, R25, R31, R35, R37, R49, R61, R112: every step keeps the bounds of the state. -/
def Obligations.StepKeepsTheBounds : Prop :=
  ∀ (s t : State), State.Wf Config.params s → step s = .next t → State.Wf Config.params t

/-- R21: every step keeps the words of the configuration and of its shadow in their ranges. -/
def Obligations.StepKeepsTheRanges : Prop :=
  ∀ (s t : State), s.cfg.InRange → s.pend.InRange → step s = .next t →
    t.cfg.InRange ∧ t.pend.InRange

/-- R41, R151, R160: every step keeps the smoothed powers and the subwindow minima finite and at least `EPS`. -/
def Obligations.StepKeepsTheFloor : Prop :=
  ∀ (s t : State), State.Wf Config.params s → Memory.floored Config.params s.mem → step s = .next t →
    Memory.floored Config.params t.mem

/-- The state after reset meets the three invariants above, and the reference parameters their constraints (R7).
Parameters are refused exactly when they violate one; those that pass give the machine of their own, and the
reference parameters give `step` and `State.reset`.
That `Params.valid` asks for a finite `EPS` is the model's reading (log entry 13), and that a refusal by name stands
for the spec's is the model's form of it (log entry 7). -/
def Obligations.ResetMeetsTheInvariants : Prop :=
  State.Wf Config.params State.reset ∧ State.reset.cfg.InRange ∧ State.reset.pend.InRange
    ∧ Memory.floored Config.params State.reset.mem ∧ Config.params.valid = true
    ∧ (∀ P : Params, P.valid = false → instantiate P = .refused .invalidParameters)
    ∧ (∀ P : Params, P.valid = true → ∃ I, instantiate P = .next I ∧ I.params = P
        ∧ machineOf I = { State := State, Fault := Fault, Refusal := Refusal
                          step := stepInstance P, reset := State.por P })
    ∧ ∃ I, instantiate Config.params = .next I
        ∧ machineOf I = { State := State, Fault := Fault, Refusal := Refusal, step := step, reset := State.reset }
end

