-- ==== Sys2Proof/Laws/State.lean ====
section
/-! SUPPORT. One lemma per field per named update of the state, so that no later proof unfolds a record
update. -/

namespace Sys2Proof.Machine

/-! ## `seterr` -/

@[simp] theorem seterr_cfg (c : ErrCause) (s : State) : (seterr c s).cfg = s.cfg := rfl
@[simp] theorem seterr_pend (c : ErrCause) (s : State) : (seterr c s).pend = s.pend := rfl
@[simp] theorem seterr_idx (c : ErrCause) (s : State) : (seterr c s).idx = s.idx := rfl
@[simp] theorem seterr_warm (c : ErrCause) (s : State) : (seterr c s).warm = s.warm := rfl
@[simp] theorem seterr_hopPhase (c : ErrCause) (s : State) :
    (seterr c s).hopPhase = s.hopPhase := rfl
@[simp] theorem seterr_mem (c : ErrCause) (s : State) : (seterr c s).mem = s.mem := rfl
@[simp] theorem seterr_frameCnt (c : ErrCause) (s : State) :
    (seterr c s).frameCnt = s.frameCnt := rfl
@[simp] theorem seterr_subPtr (c : ErrCause) (s : State) : (seterr c s).subPtr = s.subPtr := rfl
@[simp] theorem seterr_subCnt (c : ErrCause) (s : State) : (seterr c s).subCnt = s.subCnt := rfl
@[simp] theorem seterr_rawFlat (c : ErrCause) (s : State) : (seterr c s).rawFlat = s.rawFlat := rfl
@[simp] theorem seterr_sflat (c : ErrCause) (s : State) : (seterr c s).sflat = s.sflat := rfl
@[simp] theorem seterr_gateOpen (c : ErrCause) (s : State) :
    (seterr c s).gateOpen = s.gateOpen := rfl
@[simp] theorem seterr_hold (c : ErrCause) (s : State) : (seterr c s).hold = s.hold := rfl
@[simp] theorem seterr_gateMult (c : ErrCause) (s : State) :
    (seterr c s).gateMult = s.gateMult := rfl
@[simp] theorem seterr_inFifo (c : ErrCause) (s : State) : (seterr c s).inFifo = s.inFifo := rfl
@[simp] theorem seterr_outFifo (c : ErrCause) (s : State) : (seterr c s).outFifo = s.outFifo := rfl
@[simp] theorem seterr_cmdLo (c : ErrCause) (s : State) : (seterr c s).cmdLo = s.cmdLo := rfl
@[simp] theorem seterr_busy (c : ErrCause) (s : State) : (seterr c s).busy = s.busy := rfl
@[simp] theorem seterr_jobL (c : ErrCause) (s : State) : (seterr c s).jobL = s.jobL := rfl
@[simp] theorem seterr_jobX (c : ErrCause) (s : State) : (seterr c s).jobX = s.jobX := rfl
@[simp] theorem seterr_err (c : ErrCause) (s : State) : (seterr c s).err = s.err ||| errBit c := rfl
@[simp] theorem seterr_telemGr (c : ErrCause) (s : State) : (seterr c s).telemGr = s.telemGr := rfl
@[simp] theorem seterr_telemFlat (c : ErrCause) (s : State) :
    (seterr c s).telemFlat = s.telemFlat := rfl
@[simp] theorem seterr_telemSeq (c : ErrCause) (s : State) :
    (seterr c s).telemSeq = s.telemSeq := rfl
@[simp] theorem seterr_telemPhase (c : ErrCause) (s : State) :
    (seterr c s).telemPhase = s.telemPhase := rfl
@[simp] theorem seterr_agenda (c : ErrCause) (s : State) : (seterr c s).agenda = s.agenda := rfl
@[simp] theorem seterr_busData (c : ErrCause) (s : State) : (seterr c s).busData = s.busData := rfl

/-! ## `inWrite` -/

@[simp] theorem inWrite_cfg (P : Params) (i : Nat) (w : Word) (s : State) :
    (inWrite P i w s).cfg = s.cfg := rfl
@[simp] theorem inWrite_pend (P : Params) (i : Nat) (w : Word) (s : State) :
    (inWrite P i w s).pend = s.pend := rfl
@[simp] theorem inWrite_idx (P : Params) (i : Nat) (w : Word) (s : State) :
    (inWrite P i w s).idx = s.idx := rfl
@[simp] theorem inWrite_warm (P : Params) (i : Nat) (w : Word) (s : State) :
    (inWrite P i w s).warm = s.warm := rfl
@[simp] theorem inWrite_hopPhase (P : Params) (i : Nat) (w : Word) (s : State) :
    (inWrite P i w s).hopPhase = s.hopPhase := rfl
@[simp] theorem inWrite_mem (P : Params) (i : Nat) (w : Word) (s : State) :
    (inWrite P i w s).mem = { s.mem with inRing := s.mem.inRing.set (i % (2 * P.n)) w } := rfl
@[simp] theorem inWrite_frameCnt (P : Params) (i : Nat) (w : Word) (s : State) :
    (inWrite P i w s).frameCnt = s.frameCnt := rfl
@[simp] theorem inWrite_subPtr (P : Params) (i : Nat) (w : Word) (s : State) :
    (inWrite P i w s).subPtr = s.subPtr := rfl
@[simp] theorem inWrite_subCnt (P : Params) (i : Nat) (w : Word) (s : State) :
    (inWrite P i w s).subCnt = s.subCnt := rfl
@[simp] theorem inWrite_rawFlat (P : Params) (i : Nat) (w : Word) (s : State) :
    (inWrite P i w s).rawFlat = s.rawFlat := rfl
@[simp] theorem inWrite_sflat (P : Params) (i : Nat) (w : Word) (s : State) :
    (inWrite P i w s).sflat = s.sflat := rfl
@[simp] theorem inWrite_gateOpen (P : Params) (i : Nat) (w : Word) (s : State) :
    (inWrite P i w s).gateOpen = s.gateOpen := rfl
@[simp] theorem inWrite_hold (P : Params) (i : Nat) (w : Word) (s : State) :
    (inWrite P i w s).hold = s.hold := rfl
@[simp] theorem inWrite_gateMult (P : Params) (i : Nat) (w : Word) (s : State) :
    (inWrite P i w s).gateMult = s.gateMult := rfl
@[simp] theorem inWrite_inFifo (P : Params) (i : Nat) (w : Word) (s : State) :
    (inWrite P i w s).inFifo = s.inFifo := rfl
@[simp] theorem inWrite_outFifo (P : Params) (i : Nat) (w : Word) (s : State) :
    (inWrite P i w s).outFifo = s.outFifo := rfl
@[simp] theorem inWrite_cmdLo (P : Params) (i : Nat) (w : Word) (s : State) :
    (inWrite P i w s).cmdLo = s.cmdLo := rfl
@[simp] theorem inWrite_busy (P : Params) (i : Nat) (w : Word) (s : State) :
    (inWrite P i w s).busy = s.busy := rfl
@[simp] theorem inWrite_jobL (P : Params) (i : Nat) (w : Word) (s : State) :
    (inWrite P i w s).jobL = s.jobL := rfl
@[simp] theorem inWrite_jobX (P : Params) (i : Nat) (w : Word) (s : State) :
    (inWrite P i w s).jobX = s.jobX := rfl
@[simp] theorem inWrite_err (P : Params) (i : Nat) (w : Word) (s : State) :
    (inWrite P i w s).err = s.err := rfl
@[simp] theorem inWrite_telemGr (P : Params) (i : Nat) (w : Word) (s : State) :
    (inWrite P i w s).telemGr = s.telemGr := rfl
@[simp] theorem inWrite_telemFlat (P : Params) (i : Nat) (w : Word) (s : State) :
    (inWrite P i w s).telemFlat = s.telemFlat := rfl
@[simp] theorem inWrite_telemSeq (P : Params) (i : Nat) (w : Word) (s : State) :
    (inWrite P i w s).telemSeq = s.telemSeq := rfl
@[simp] theorem inWrite_telemPhase (P : Params) (i : Nat) (w : Word) (s : State) :
    (inWrite P i w s).telemPhase = s.telemPhase := rfl
@[simp] theorem inWrite_agenda (P : Params) (i : Nat) (w : Word) (s : State) :
    (inWrite P i w s).agenda = s.agenda := rfl
@[simp] theorem inWrite_busData (P : Params) (i : Nat) (w : Word) (s : State) :
    (inWrite P i w s).busData = s.busData := rfl

/-! ## `outWrite` -/

@[simp] theorem outWrite_cfg (P : Params) (i : Nat) (v : F64) (s : State) :
    (outWrite P i v s).cfg = s.cfg := rfl
@[simp] theorem outWrite_pend (P : Params) (i : Nat) (v : F64) (s : State) :
    (outWrite P i v s).pend = s.pend := rfl
@[simp] theorem outWrite_idx (P : Params) (i : Nat) (v : F64) (s : State) :
    (outWrite P i v s).idx = s.idx := rfl
@[simp] theorem outWrite_warm (P : Params) (i : Nat) (v : F64) (s : State) :
    (outWrite P i v s).warm = s.warm := rfl
@[simp] theorem outWrite_hopPhase (P : Params) (i : Nat) (v : F64) (s : State) :
    (outWrite P i v s).hopPhase = s.hopPhase := rfl
@[simp] theorem outWrite_mem (P : Params) (i : Nat) (v : F64) (s : State) :
    (outWrite P i v s).mem = { s.mem with outRing := s.mem.outRing.set (i % (2 * P.n)) v } := rfl
@[simp] theorem outWrite_frameCnt (P : Params) (i : Nat) (v : F64) (s : State) :
    (outWrite P i v s).frameCnt = s.frameCnt := rfl
@[simp] theorem outWrite_subPtr (P : Params) (i : Nat) (v : F64) (s : State) :
    (outWrite P i v s).subPtr = s.subPtr := rfl
@[simp] theorem outWrite_subCnt (P : Params) (i : Nat) (v : F64) (s : State) :
    (outWrite P i v s).subCnt = s.subCnt := rfl
@[simp] theorem outWrite_rawFlat (P : Params) (i : Nat) (v : F64) (s : State) :
    (outWrite P i v s).rawFlat = s.rawFlat := rfl
@[simp] theorem outWrite_sflat (P : Params) (i : Nat) (v : F64) (s : State) :
    (outWrite P i v s).sflat = s.sflat := rfl
@[simp] theorem outWrite_gateOpen (P : Params) (i : Nat) (v : F64) (s : State) :
    (outWrite P i v s).gateOpen = s.gateOpen := rfl
@[simp] theorem outWrite_hold (P : Params) (i : Nat) (v : F64) (s : State) :
    (outWrite P i v s).hold = s.hold := rfl
@[simp] theorem outWrite_gateMult (P : Params) (i : Nat) (v : F64) (s : State) :
    (outWrite P i v s).gateMult = s.gateMult := rfl
@[simp] theorem outWrite_inFifo (P : Params) (i : Nat) (v : F64) (s : State) :
    (outWrite P i v s).inFifo = s.inFifo := rfl
@[simp] theorem outWrite_outFifo (P : Params) (i : Nat) (v : F64) (s : State) :
    (outWrite P i v s).outFifo = s.outFifo := rfl
@[simp] theorem outWrite_cmdLo (P : Params) (i : Nat) (v : F64) (s : State) :
    (outWrite P i v s).cmdLo = s.cmdLo := rfl
@[simp] theorem outWrite_busy (P : Params) (i : Nat) (v : F64) (s : State) :
    (outWrite P i v s).busy = s.busy := rfl
@[simp] theorem outWrite_jobL (P : Params) (i : Nat) (v : F64) (s : State) :
    (outWrite P i v s).jobL = s.jobL := rfl
@[simp] theorem outWrite_jobX (P : Params) (i : Nat) (v : F64) (s : State) :
    (outWrite P i v s).jobX = s.jobX := rfl
@[simp] theorem outWrite_err (P : Params) (i : Nat) (v : F64) (s : State) :
    (outWrite P i v s).err = s.err := rfl
@[simp] theorem outWrite_telemGr (P : Params) (i : Nat) (v : F64) (s : State) :
    (outWrite P i v s).telemGr = s.telemGr := rfl
@[simp] theorem outWrite_telemFlat (P : Params) (i : Nat) (v : F64) (s : State) :
    (outWrite P i v s).telemFlat = s.telemFlat := rfl
@[simp] theorem outWrite_telemSeq (P : Params) (i : Nat) (v : F64) (s : State) :
    (outWrite P i v s).telemSeq = s.telemSeq := rfl
@[simp] theorem outWrite_telemPhase (P : Params) (i : Nat) (v : F64) (s : State) :
    (outWrite P i v s).telemPhase = s.telemPhase := rfl
@[simp] theorem outWrite_agenda (P : Params) (i : Nat) (v : F64) (s : State) :
    (outWrite P i v s).agenda = s.agenda := rfl
@[simp] theorem outWrite_busData (P : Params) (i : Nat) (v : F64) (s : State) :
    (outWrite P i v s).busData = s.busData := rfl

/-! ## `resetAdaptive` -/

@[simp] theorem resetAdaptive_cfg (P : Params) (s : State) : (resetAdaptive P s).cfg = s.cfg := rfl
@[simp] theorem resetAdaptive_pend (P : Params) (s : State) :
    (resetAdaptive P s).pend = s.pend := rfl
@[simp] theorem resetAdaptive_idx (P : Params) (s : State) : (resetAdaptive P s).idx = s.idx := rfl
@[simp] theorem resetAdaptive_warm (P : Params) (s : State) :
    (resetAdaptive P s).warm = s.warm := rfl
@[simp] theorem resetAdaptive_hopPhase (P : Params) (s : State) :
    (resetAdaptive P s).hopPhase = s.hopPhase := rfl
@[simp] theorem resetAdaptive_mem (P : Params) (s : State) :
    (resetAdaptive P s).mem = s.mem.resetAdaptive P := rfl
@[simp] theorem resetAdaptive_frameCnt (P : Params) (s : State) :
    (resetAdaptive P s).frameCnt = 0 := rfl
@[simp] theorem resetAdaptive_subPtr (P : Params) (s : State) :
    (resetAdaptive P s).subPtr = 0 := rfl
@[simp] theorem resetAdaptive_subCnt (P : Params) (s : State) :
    (resetAdaptive P s).subCnt = 0 := rfl
@[simp] theorem resetAdaptive_rawFlat (P : Params) (s : State) :
    (resetAdaptive P s).rawFlat = F64.zero := rfl
@[simp] theorem resetAdaptive_sflat (P : Params) (s : State) :
    (resetAdaptive P s).sflat = P.sflatInit := rfl
@[simp] theorem resetAdaptive_gateOpen (P : Params) (s : State) :
    (resetAdaptive P s).gateOpen = true := rfl
@[simp] theorem resetAdaptive_hold (P : Params) (s : State) :
    (resetAdaptive P s).hold = P.holdSamples s.cfg.profile := rfl
@[simp] theorem resetAdaptive_gateMult (P : Params) (s : State) :
    (resetAdaptive P s).gateMult = F64.one := rfl
@[simp] theorem resetAdaptive_inFifo (P : Params) (s : State) :
    (resetAdaptive P s).inFifo = s.inFifo := rfl
@[simp] theorem resetAdaptive_outFifo (P : Params) (s : State) :
    (resetAdaptive P s).outFifo = s.outFifo := rfl
@[simp] theorem resetAdaptive_cmdLo (P : Params) (s : State) :
    (resetAdaptive P s).cmdLo = s.cmdLo := rfl
@[simp] theorem resetAdaptive_busy (P : Params) (s : State) :
    (resetAdaptive P s).busy = s.busy := rfl
@[simp] theorem resetAdaptive_jobL (P : Params) (s : State) :
    (resetAdaptive P s).jobL = s.jobL := rfl
@[simp] theorem resetAdaptive_jobX (P : Params) (s : State) :
    (resetAdaptive P s).jobX = s.jobX := rfl
@[simp] theorem resetAdaptive_err (P : Params) (s : State) : (resetAdaptive P s).err = s.err := rfl
@[simp] theorem resetAdaptive_telemGr (P : Params) (s : State) :
    (resetAdaptive P s).telemGr = s.telemGr := rfl
@[simp] theorem resetAdaptive_telemFlat (P : Params) (s : State) :
    (resetAdaptive P s).telemFlat = s.telemFlat := rfl
@[simp] theorem resetAdaptive_telemSeq (P : Params) (s : State) :
    (resetAdaptive P s).telemSeq = s.telemSeq := rfl
@[simp] theorem resetAdaptive_telemPhase (P : Params) (s : State) :
    (resetAdaptive P s).telemPhase = s.telemPhase := rfl
@[simp] theorem resetAdaptive_agenda (P : Params) (s : State) :
    (resetAdaptive P s).agenda = s.agenda := rfl
@[simp] theorem resetAdaptive_busData (P : Params) (s : State) :
    (resetAdaptive P s).busData = s.busData := rfl

/-! ## `vadUpdate` -/

@[simp] theorem vadUpdate_cfg (P : Params) (pw : List F64) (s : State) :
    (vadUpdate P pw s).cfg = s.cfg := rfl
@[simp] theorem vadUpdate_pend (P : Params) (pw : List F64) (s : State) :
    (vadUpdate P pw s).pend = s.pend := rfl
@[simp] theorem vadUpdate_idx (P : Params) (pw : List F64) (s : State) :
    (vadUpdate P pw s).idx = s.idx := rfl
@[simp] theorem vadUpdate_warm (P : Params) (pw : List F64) (s : State) :
    (vadUpdate P pw s).warm = s.warm := rfl
@[simp] theorem vadUpdate_hopPhase (P : Params) (pw : List F64) (s : State) :
    (vadUpdate P pw s).hopPhase = s.hopPhase := rfl
@[simp] theorem vadUpdate_mem (P : Params) (pw : List F64) (s : State) :
    (vadUpdate P pw s).mem = s.mem := rfl
@[simp] theorem vadUpdate_frameCnt (P : Params) (pw : List F64) (s : State) :
    (vadUpdate P pw s).frameCnt = s.frameCnt := rfl
@[simp] theorem vadUpdate_subPtr (P : Params) (pw : List F64) (s : State) :
    (vadUpdate P pw s).subPtr = s.subPtr := rfl
@[simp] theorem vadUpdate_subCnt (P : Params) (pw : List F64) (s : State) :
    (vadUpdate P pw s).subCnt = s.subCnt := rfl
@[simp] theorem vadUpdate_rawFlat (P : Params) (pw : List F64) (s : State) :
    (vadUpdate P pw s).rawFlat = rawScore P (bandPeak P pw) (bandMean P pw) := rfl
@[simp] theorem vadUpdate_sflat (P : Params) (pw : List F64) (s : State) :
    (vadUpdate P pw s).sflat = smoothScore (rawScore P (bandPeak P pw) (bandMean P pw)) s.sflat := rfl
@[simp] theorem vadUpdate_gateOpen (P : Params) (pw : List F64) (s : State) :
    (vadUpdate P pw s).gateOpen = s.gateOpen := rfl
@[simp] theorem vadUpdate_hold (P : Params) (pw : List F64) (s : State) :
    (vadUpdate P pw s).hold = s.hold := rfl
@[simp] theorem vadUpdate_gateMult (P : Params) (pw : List F64) (s : State) :
    (vadUpdate P pw s).gateMult = s.gateMult := rfl
@[simp] theorem vadUpdate_inFifo (P : Params) (pw : List F64) (s : State) :
    (vadUpdate P pw s).inFifo = s.inFifo := rfl
@[simp] theorem vadUpdate_outFifo (P : Params) (pw : List F64) (s : State) :
    (vadUpdate P pw s).outFifo = s.outFifo := rfl
@[simp] theorem vadUpdate_cmdLo (P : Params) (pw : List F64) (s : State) :
    (vadUpdate P pw s).cmdLo = s.cmdLo := rfl
@[simp] theorem vadUpdate_busy (P : Params) (pw : List F64) (s : State) :
    (vadUpdate P pw s).busy = s.busy := rfl
@[simp] theorem vadUpdate_jobL (P : Params) (pw : List F64) (s : State) :
    (vadUpdate P pw s).jobL = s.jobL := rfl
@[simp] theorem vadUpdate_jobX (P : Params) (pw : List F64) (s : State) :
    (vadUpdate P pw s).jobX = s.jobX := rfl
@[simp] theorem vadUpdate_err (P : Params) (pw : List F64) (s : State) :
    (vadUpdate P pw s).err = s.err := rfl
@[simp] theorem vadUpdate_telemGr (P : Params) (pw : List F64) (s : State) :
    (vadUpdate P pw s).telemGr = s.telemGr := rfl
@[simp] theorem vadUpdate_telemFlat (P : Params) (pw : List F64) (s : State) :
    (vadUpdate P pw s).telemFlat = s.telemFlat := rfl
@[simp] theorem vadUpdate_telemSeq (P : Params) (pw : List F64) (s : State) :
    (vadUpdate P pw s).telemSeq = s.telemSeq := rfl
@[simp] theorem vadUpdate_telemPhase (P : Params) (pw : List F64) (s : State) :
    (vadUpdate P pw s).telemPhase = s.telemPhase := rfl
@[simp] theorem vadUpdate_agenda (P : Params) (pw : List F64) (s : State) :
    (vadUpdate P pw s).agenda = s.agenda := rfl
@[simp] theorem vadUpdate_busData (P : Params) (pw : List F64) (s : State) :
    (vadUpdate P pw s).busData = s.busData := rfl

/-! ## `countFrame` -/

@[simp] theorem countFrame_cfg (s : State) : (countFrame s).cfg = s.cfg := rfl
@[simp] theorem countFrame_pend (s : State) : (countFrame s).pend = s.pend := rfl
@[simp] theorem countFrame_idx (s : State) : (countFrame s).idx = s.idx := rfl
@[simp] theorem countFrame_warm (s : State) : (countFrame s).warm = s.warm := rfl
@[simp] theorem countFrame_hopPhase (s : State) : (countFrame s).hopPhase = s.hopPhase := rfl
@[simp] theorem countFrame_mem (s : State) : (countFrame s).mem = s.mem := rfl
@[simp] theorem countFrame_frameCnt (s : State) :
    (countFrame s).frameCnt = (s.frameCnt + 1) % 500 := rfl
@[simp] theorem countFrame_subPtr (s : State) : (countFrame s).subPtr = s.subPtr := rfl
@[simp] theorem countFrame_subCnt (s : State) : (countFrame s).subCnt = s.subCnt := rfl
@[simp] theorem countFrame_rawFlat (s : State) : (countFrame s).rawFlat = s.rawFlat := rfl
@[simp] theorem countFrame_sflat (s : State) : (countFrame s).sflat = s.sflat := rfl
@[simp] theorem countFrame_gateOpen (s : State) : (countFrame s).gateOpen = s.gateOpen := rfl
@[simp] theorem countFrame_hold (s : State) : (countFrame s).hold = s.hold := rfl
@[simp] theorem countFrame_gateMult (s : State) : (countFrame s).gateMult = s.gateMult := rfl
@[simp] theorem countFrame_inFifo (s : State) : (countFrame s).inFifo = s.inFifo := rfl
@[simp] theorem countFrame_outFifo (s : State) : (countFrame s).outFifo = s.outFifo := rfl
@[simp] theorem countFrame_cmdLo (s : State) : (countFrame s).cmdLo = s.cmdLo := rfl
@[simp] theorem countFrame_busy (s : State) : (countFrame s).busy = s.busy := rfl
@[simp] theorem countFrame_jobL (s : State) : (countFrame s).jobL = s.jobL := rfl
@[simp] theorem countFrame_jobX (s : State) : (countFrame s).jobX = s.jobX := rfl
@[simp] theorem countFrame_err (s : State) : (countFrame s).err = s.err := rfl
@[simp] theorem countFrame_telemGr (s : State) : (countFrame s).telemGr = s.telemGr := rfl
@[simp] theorem countFrame_telemFlat (s : State) : (countFrame s).telemFlat = s.telemFlat := rfl
@[simp] theorem countFrame_telemSeq (s : State) : (countFrame s).telemSeq = s.telemSeq := rfl
@[simp] theorem countFrame_telemPhase (s : State) : (countFrame s).telemPhase = s.telemPhase := rfl
@[simp] theorem countFrame_agenda (s : State) : (countFrame s).agenda = s.agenda := rfl
@[simp] theorem countFrame_busData (s : State) : (countFrame s).busData = s.busData := rfl

/-! ## `gainUpdate` -/

@[simp] theorem gainUpdate_cfg (P : Params) (pw : List F64) (s : State) :
    (gainUpdate P pw s).cfg = s.cfg := rfl
@[simp] theorem gainUpdate_pend (P : Params) (pw : List F64) (s : State) :
    (gainUpdate P pw s).pend = s.pend := rfl
@[simp] theorem gainUpdate_idx (P : Params) (pw : List F64) (s : State) :
    (gainUpdate P pw s).idx = s.idx := rfl
@[simp] theorem gainUpdate_warm (P : Params) (pw : List F64) (s : State) :
    (gainUpdate P pw s).warm = s.warm := rfl
@[simp] theorem gainUpdate_hopPhase (P : Params) (pw : List F64) (s : State) :
    (gainUpdate P pw s).hopPhase = s.hopPhase := rfl
@[simp] theorem gainUpdate_mem (P : Params) (pw : List F64) (s : State) :
    (gainUpdate P pw s).mem = { s.mem with prevGain := newPrevGain P pw s } := rfl
@[simp] theorem gainUpdate_frameCnt (P : Params) (pw : List F64) (s : State) :
    (gainUpdate P pw s).frameCnt = s.frameCnt := rfl
@[simp] theorem gainUpdate_subPtr (P : Params) (pw : List F64) (s : State) :
    (gainUpdate P pw s).subPtr = s.subPtr := rfl
@[simp] theorem gainUpdate_subCnt (P : Params) (pw : List F64) (s : State) :
    (gainUpdate P pw s).subCnt = s.subCnt := rfl
@[simp] theorem gainUpdate_rawFlat (P : Params) (pw : List F64) (s : State) :
    (gainUpdate P pw s).rawFlat = s.rawFlat := rfl
@[simp] theorem gainUpdate_sflat (P : Params) (pw : List F64) (s : State) :
    (gainUpdate P pw s).sflat = s.sflat := rfl
@[simp] theorem gainUpdate_gateOpen (P : Params) (pw : List F64) (s : State) :
    (gainUpdate P pw s).gateOpen = s.gateOpen := rfl
@[simp] theorem gainUpdate_hold (P : Params) (pw : List F64) (s : State) :
    (gainUpdate P pw s).hold = s.hold := rfl
@[simp] theorem gainUpdate_gateMult (P : Params) (pw : List F64) (s : State) :
    (gainUpdate P pw s).gateMult = s.gateMult := rfl
@[simp] theorem gainUpdate_inFifo (P : Params) (pw : List F64) (s : State) :
    (gainUpdate P pw s).inFifo = s.inFifo := rfl
@[simp] theorem gainUpdate_outFifo (P : Params) (pw : List F64) (s : State) :
    (gainUpdate P pw s).outFifo = s.outFifo := rfl
@[simp] theorem gainUpdate_cmdLo (P : Params) (pw : List F64) (s : State) :
    (gainUpdate P pw s).cmdLo = s.cmdLo := rfl
@[simp] theorem gainUpdate_busy (P : Params) (pw : List F64) (s : State) :
    (gainUpdate P pw s).busy = s.busy := rfl
@[simp] theorem gainUpdate_jobL (P : Params) (pw : List F64) (s : State) :
    (gainUpdate P pw s).jobL = s.jobL := rfl
@[simp] theorem gainUpdate_jobX (P : Params) (pw : List F64) (s : State) :
    (gainUpdate P pw s).jobX = s.jobX := rfl
@[simp] theorem gainUpdate_err (P : Params) (pw : List F64) (s : State) :
    (gainUpdate P pw s).err = s.err := rfl
@[simp] theorem gainUpdate_telemGr (P : Params) (pw : List F64) (s : State) :
    (gainUpdate P pw s).telemGr = s.telemGr := rfl
@[simp] theorem gainUpdate_telemFlat (P : Params) (pw : List F64) (s : State) :
    (gainUpdate P pw s).telemFlat = s.telemFlat := rfl
@[simp] theorem gainUpdate_telemSeq (P : Params) (pw : List F64) (s : State) :
    (gainUpdate P pw s).telemSeq = s.telemSeq := rfl
@[simp] theorem gainUpdate_telemPhase (P : Params) (pw : List F64) (s : State) :
    (gainUpdate P pw s).telemPhase = s.telemPhase := rfl
@[simp] theorem gainUpdate_agenda (P : Params) (pw : List F64) (s : State) :
    (gainUpdate P pw s).agenda = s.agenda := rfl
@[simp] theorem gainUpdate_busData (P : Params) (pw : List F64) (s : State) :
    (gainUpdate P pw s).busData = s.busData := rfl

/-! ## `smootherUpdate` -/

@[simp] theorem smootherUpdate_cfg (P : Params) (g : List F64) (s : State) :
    (smootherUpdate P g s).cfg = s.cfg := rfl
@[simp] theorem smootherUpdate_pend (P : Params) (g : List F64) (s : State) :
    (smootherUpdate P g s).pend = s.pend := rfl
@[simp] theorem smootherUpdate_idx (P : Params) (g : List F64) (s : State) :
    (smootherUpdate P g s).idx = s.idx := rfl
@[simp] theorem smootherUpdate_warm (P : Params) (g : List F64) (s : State) :
    (smootherUpdate P g s).warm = s.warm := rfl
@[simp] theorem smootherUpdate_hopPhase (P : Params) (g : List F64) (s : State) :
    (smootherUpdate P g s).hopPhase = s.hopPhase := rfl
@[simp] theorem smootherUpdate_mem (P : Params) (g : List F64) (s : State) :
    (smootherUpdate P g s).mem = { s.mem with
      fsg := perBin P.nb (fun k => runningGain (elem s.mem.fsg k) (elem (smoothGains P g s) k)) } := rfl
@[simp] theorem smootherUpdate_frameCnt (P : Params) (g : List F64) (s : State) :
    (smootherUpdate P g s).frameCnt = s.frameCnt := rfl
@[simp] theorem smootherUpdate_subPtr (P : Params) (g : List F64) (s : State) :
    (smootherUpdate P g s).subPtr = s.subPtr := rfl
@[simp] theorem smootherUpdate_subCnt (P : Params) (g : List F64) (s : State) :
    (smootherUpdate P g s).subCnt = s.subCnt := rfl
@[simp] theorem smootherUpdate_rawFlat (P : Params) (g : List F64) (s : State) :
    (smootherUpdate P g s).rawFlat = s.rawFlat := rfl
@[simp] theorem smootherUpdate_sflat (P : Params) (g : List F64) (s : State) :
    (smootherUpdate P g s).sflat = s.sflat := rfl
@[simp] theorem smootherUpdate_gateOpen (P : Params) (g : List F64) (s : State) :
    (smootherUpdate P g s).gateOpen = s.gateOpen := rfl
@[simp] theorem smootherUpdate_hold (P : Params) (g : List F64) (s : State) :
    (smootherUpdate P g s).hold = s.hold := rfl
@[simp] theorem smootherUpdate_gateMult (P : Params) (g : List F64) (s : State) :
    (smootherUpdate P g s).gateMult = s.gateMult := rfl
@[simp] theorem smootherUpdate_inFifo (P : Params) (g : List F64) (s : State) :
    (smootherUpdate P g s).inFifo = s.inFifo := rfl
@[simp] theorem smootherUpdate_outFifo (P : Params) (g : List F64) (s : State) :
    (smootherUpdate P g s).outFifo = s.outFifo := rfl
@[simp] theorem smootherUpdate_cmdLo (P : Params) (g : List F64) (s : State) :
    (smootherUpdate P g s).cmdLo = s.cmdLo := rfl
@[simp] theorem smootherUpdate_busy (P : Params) (g : List F64) (s : State) :
    (smootherUpdate P g s).busy = s.busy := rfl
@[simp] theorem smootherUpdate_jobL (P : Params) (g : List F64) (s : State) :
    (smootherUpdate P g s).jobL = s.jobL := rfl
@[simp] theorem smootherUpdate_jobX (P : Params) (g : List F64) (s : State) :
    (smootherUpdate P g s).jobX = s.jobX := rfl
@[simp] theorem smootherUpdate_err (P : Params) (g : List F64) (s : State) :
    (smootherUpdate P g s).err = s.err := rfl
@[simp] theorem smootherUpdate_telemGr (P : Params) (g : List F64) (s : State) :
    (smootherUpdate P g s).telemGr = s.telemGr := rfl
@[simp] theorem smootherUpdate_telemFlat (P : Params) (g : List F64) (s : State) :
    (smootherUpdate P g s).telemFlat = s.telemFlat := rfl
@[simp] theorem smootherUpdate_telemSeq (P : Params) (g : List F64) (s : State) :
    (smootherUpdate P g s).telemSeq = s.telemSeq := rfl
@[simp] theorem smootherUpdate_telemPhase (P : Params) (g : List F64) (s : State) :
    (smootherUpdate P g s).telemPhase = s.telemPhase := rfl
@[simp] theorem smootherUpdate_agenda (P : Params) (g : List F64) (s : State) :
    (smootherUpdate P g s).agenda = s.agenda := rfl
@[simp] theorem smootherUpdate_busData (P : Params) (g : List F64) (s : State) :
    (smootherUpdate P g s).busData = s.busData := rfl

/-! ## `gateMultStep` -/

@[simp] theorem gateMultStep_cfg (P : Params) (s : State) : (gateMultStep P s).cfg = s.cfg := rfl
@[simp] theorem gateMultStep_pend (P : Params) (s : State) : (gateMultStep P s).pend = s.pend := rfl
@[simp] theorem gateMultStep_idx (P : Params) (s : State) : (gateMultStep P s).idx = s.idx := rfl
@[simp] theorem gateMultStep_warm (P : Params) (s : State) : (gateMultStep P s).warm = s.warm := rfl
@[simp] theorem gateMultStep_hopPhase (P : Params) (s : State) :
    (gateMultStep P s).hopPhase = s.hopPhase := rfl
@[simp] theorem gateMultStep_mem (P : Params) (s : State) : (gateMultStep P s).mem = s.mem := rfl
@[simp] theorem gateMultStep_frameCnt (P : Params) (s : State) :
    (gateMultStep P s).frameCnt = s.frameCnt := rfl
@[simp] theorem gateMultStep_subPtr (P : Params) (s : State) :
    (gateMultStep P s).subPtr = s.subPtr := rfl
@[simp] theorem gateMultStep_subCnt (P : Params) (s : State) :
    (gateMultStep P s).subCnt = s.subCnt := rfl
@[simp] theorem gateMultStep_rawFlat (P : Params) (s : State) :
    (gateMultStep P s).rawFlat = s.rawFlat := rfl
@[simp] theorem gateMultStep_sflat (P : Params) (s : State) :
    (gateMultStep P s).sflat = s.sflat := rfl
@[simp] theorem gateMultStep_gateOpen (P : Params) (s : State) :
    (gateMultStep P s).gateOpen = s.gateOpen := rfl
@[simp] theorem gateMultStep_hold (P : Params) (s : State) : (gateMultStep P s).hold = s.hold := rfl
@[simp] theorem gateMultStep_gateMult (P : Params) (s : State) :
    (gateMultStep P s).gateMult = gateMultNext P s.cfg s.gateOpen s.gateMult := rfl
@[simp] theorem gateMultStep_inFifo (P : Params) (s : State) :
    (gateMultStep P s).inFifo = s.inFifo := rfl
@[simp] theorem gateMultStep_outFifo (P : Params) (s : State) :
    (gateMultStep P s).outFifo = s.outFifo := rfl
@[simp] theorem gateMultStep_cmdLo (P : Params) (s : State) :
    (gateMultStep P s).cmdLo = s.cmdLo := rfl
@[simp] theorem gateMultStep_busy (P : Params) (s : State) : (gateMultStep P s).busy = s.busy := rfl
@[simp] theorem gateMultStep_jobL (P : Params) (s : State) : (gateMultStep P s).jobL = s.jobL := rfl
@[simp] theorem gateMultStep_jobX (P : Params) (s : State) : (gateMultStep P s).jobX = s.jobX := rfl
@[simp] theorem gateMultStep_err (P : Params) (s : State) : (gateMultStep P s).err = s.err := rfl
@[simp] theorem gateMultStep_telemGr (P : Params) (s : State) :
    (gateMultStep P s).telemGr = s.telemGr := rfl
@[simp] theorem gateMultStep_telemFlat (P : Params) (s : State) :
    (gateMultStep P s).telemFlat = s.telemFlat := rfl
@[simp] theorem gateMultStep_telemSeq (P : Params) (s : State) :
    (gateMultStep P s).telemSeq = s.telemSeq := rfl
@[simp] theorem gateMultStep_telemPhase (P : Params) (s : State) :
    (gateMultStep P s).telemPhase = s.telemPhase := rfl
@[simp] theorem gateMultStep_agenda (P : Params) (s : State) :
    (gateMultStep P s).agenda = s.agenda := rfl
@[simp] theorem gateMultStep_busData (P : Params) (s : State) :
    (gateMultStep P s).busData = s.busData := rfl

/-! ## `complete` -/

@[simp] theorem complete_cfg (outs : List Word) (s : State) : (complete outs s).cfg = s.cfg := rfl
@[simp] theorem complete_pend (outs : List Word) (s : State) :
    (complete outs s).pend = s.pend := rfl
@[simp] theorem complete_idx (outs : List Word) (s : State) : (complete outs s).idx = s.idx := rfl
@[simp] theorem complete_warm (outs : List Word) (s : State) :
    (complete outs s).warm = s.warm := rfl
@[simp] theorem complete_hopPhase (outs : List Word) (s : State) :
    (complete outs s).hopPhase = s.hopPhase := rfl
@[simp] theorem complete_mem (outs : List Word) (s : State) : (complete outs s).mem = s.mem := rfl
@[simp] theorem complete_frameCnt (outs : List Word) (s : State) :
    (complete outs s).frameCnt = s.frameCnt := rfl
@[simp] theorem complete_subPtr (outs : List Word) (s : State) :
    (complete outs s).subPtr = s.subPtr := rfl
@[simp] theorem complete_subCnt (outs : List Word) (s : State) :
    (complete outs s).subCnt = s.subCnt := rfl
@[simp] theorem complete_rawFlat (outs : List Word) (s : State) :
    (complete outs s).rawFlat = s.rawFlat := rfl
@[simp] theorem complete_sflat (outs : List Word) (s : State) :
    (complete outs s).sflat = s.sflat := rfl
@[simp] theorem complete_gateOpen (outs : List Word) (s : State) :
    (complete outs s).gateOpen = s.gateOpen := rfl
@[simp] theorem complete_hold (outs : List Word) (s : State) :
    (complete outs s).hold = s.hold := rfl
@[simp] theorem complete_gateMult (outs : List Word) (s : State) :
    (complete outs s).gateMult = s.gateMult := rfl
@[simp] theorem complete_inFifo (outs : List Word) (s : State) :
    (complete outs s).inFifo = s.inFifo := rfl
@[simp] theorem complete_outFifo (outs : List Word) (s : State) :
    (complete outs s).outFifo = s.outFifo ++ outs := rfl
@[simp] theorem complete_cmdLo (outs : List Word) (s : State) :
    (complete outs s).cmdLo = s.cmdLo := rfl
@[simp] theorem complete_busy (outs : List Word) (s : State) : (complete outs s).busy = false := rfl
@[simp] theorem complete_jobL (outs : List Word) (s : State) : (complete outs s).jobL = 0 := rfl
@[simp] theorem complete_jobX (outs : List Word) (s : State) : (complete outs s).jobX = [] := rfl
@[simp] theorem complete_err (outs : List Word) (s : State) : (complete outs s).err = s.err := rfl
@[simp] theorem complete_telemGr (outs : List Word) (s : State) :
    (complete outs s).telemGr = s.telemGr := rfl
@[simp] theorem complete_telemFlat (outs : List Word) (s : State) :
    (complete outs s).telemFlat = s.telemFlat := rfl
@[simp] theorem complete_telemSeq (outs : List Word) (s : State) :
    (complete outs s).telemSeq = s.telemSeq := rfl
@[simp] theorem complete_telemPhase (outs : List Word) (s : State) :
    (complete outs s).telemPhase = s.telemPhase := rfl
@[simp] theorem complete_agenda (outs : List Word) (s : State) :
    (complete outs s).agenda = s.agenda := rfl
@[simp] theorem complete_busData (outs : List Word) (s : State) :
    (complete outs s).busData = s.busData := rfl

/-! ## `powerOnReset` -/

@[simp] theorem powerOnReset_cfg (P : Params) (s : State) :
    (powerOnReset P s).cfg = (State.por P).cfg := rfl
@[simp] theorem powerOnReset_pend (P : Params) (s : State) :
    (powerOnReset P s).pend = (State.por P).pend := rfl
@[simp] theorem powerOnReset_idx (P : Params) (s : State) :
    (powerOnReset P s).idx = (State.por P).idx := rfl
@[simp] theorem powerOnReset_warm (P : Params) (s : State) :
    (powerOnReset P s).warm = (State.por P).warm := rfl
@[simp] theorem powerOnReset_hopPhase (P : Params) (s : State) :
    (powerOnReset P s).hopPhase = (State.por P).hopPhase := rfl
@[simp] theorem powerOnReset_mem (P : Params) (s : State) :
    (powerOnReset P s).mem = (State.por P).mem := rfl
@[simp] theorem powerOnReset_frameCnt (P : Params) (s : State) :
    (powerOnReset P s).frameCnt = (State.por P).frameCnt := rfl
@[simp] theorem powerOnReset_subPtr (P : Params) (s : State) :
    (powerOnReset P s).subPtr = (State.por P).subPtr := rfl
@[simp] theorem powerOnReset_subCnt (P : Params) (s : State) :
    (powerOnReset P s).subCnt = (State.por P).subCnt := rfl
@[simp] theorem powerOnReset_rawFlat (P : Params) (s : State) :
    (powerOnReset P s).rawFlat = (State.por P).rawFlat := rfl
@[simp] theorem powerOnReset_sflat (P : Params) (s : State) :
    (powerOnReset P s).sflat = (State.por P).sflat := rfl
@[simp] theorem powerOnReset_gateOpen (P : Params) (s : State) :
    (powerOnReset P s).gateOpen = (State.por P).gateOpen := rfl
@[simp] theorem powerOnReset_hold (P : Params) (s : State) :
    (powerOnReset P s).hold = (State.por P).hold := rfl
@[simp] theorem powerOnReset_gateMult (P : Params) (s : State) :
    (powerOnReset P s).gateMult = (State.por P).gateMult := rfl
@[simp] theorem powerOnReset_inFifo (P : Params) (s : State) :
    (powerOnReset P s).inFifo = (State.por P).inFifo := rfl
@[simp] theorem powerOnReset_outFifo (P : Params) (s : State) :
    (powerOnReset P s).outFifo = (State.por P).outFifo := rfl
@[simp] theorem powerOnReset_cmdLo (P : Params) (s : State) :
    (powerOnReset P s).cmdLo = (State.por P).cmdLo := rfl
@[simp] theorem powerOnReset_busy (P : Params) (s : State) :
    (powerOnReset P s).busy = (State.por P).busy := rfl
@[simp] theorem powerOnReset_jobL (P : Params) (s : State) :
    (powerOnReset P s).jobL = (State.por P).jobL := rfl
@[simp] theorem powerOnReset_jobX (P : Params) (s : State) :
    (powerOnReset P s).jobX = (State.por P).jobX := rfl
@[simp] theorem powerOnReset_err (P : Params) (s : State) :
    (powerOnReset P s).err = (State.por P).err := rfl
@[simp] theorem powerOnReset_telemGr (P : Params) (s : State) :
    (powerOnReset P s).telemGr = (State.por P).telemGr := rfl
@[simp] theorem powerOnReset_telemFlat (P : Params) (s : State) :
    (powerOnReset P s).telemFlat = (State.por P).telemFlat := rfl
@[simp] theorem powerOnReset_telemSeq (P : Params) (s : State) :
    (powerOnReset P s).telemSeq = (State.por P).telemSeq := rfl
@[simp] theorem powerOnReset_telemPhase (P : Params) (s : State) :
    (powerOnReset P s).telemPhase = (State.por P).telemPhase := rfl
@[simp] theorem powerOnReset_agenda (P : Params) (s : State) :
    (powerOnReset P s).agenda = s.agenda := rfl
@[simp] theorem powerOnReset_busData (P : Params) (s : State) :
    (powerOnReset P s).busData = s.busData := rfl

end Sys2Proof.Machine
end

