-- ==== Sys2Proof/Laws/Engine.lean ====
section
/-! SUPPORT. What the engine's operations leave unchanged, said once for each shared operation. -/

namespace Sys2Proof.Machine

/-- `t` differs from `s` at most in what a sample step writes: the sequencer, the internal memories, the
estimator counters, the score, the gate multiplier and `ERR`. -/
structure SampleFrame (s t : State) : Prop where
  cfg : t.cfg = s.cfg
  pend : t.pend = s.pend
  gateOpen : t.gateOpen = s.gateOpen
  hold : t.hold = s.hold
  inFifo : t.inFifo = s.inFifo
  outFifo : t.outFifo = s.outFifo
  cmdLo : t.cmdLo = s.cmdLo
  busy : t.busy = s.busy
  jobL : t.jobL = s.jobL
  jobX : t.jobX = s.jobX
  telemGr : t.telemGr = s.telemGr
  telemFlat : t.telemFlat = s.telemFlat
  telemSeq : t.telemSeq = s.telemSeq
  telemPhase : t.telemPhase = s.telemPhase
  agenda : t.agenda = s.agenda
  busData : t.busData = s.busData

namespace SampleFrame

theorem refl (s : State) : SampleFrame s s := by constructor <;> rfl

theorem trans {s t u : State} (h : SampleFrame s t) (k : SampleFrame t u) : SampleFrame s u where
  cfg := k.cfg.trans h.cfg
  pend := k.pend.trans h.pend
  gateOpen := k.gateOpen.trans h.gateOpen
  hold := k.hold.trans h.hold
  inFifo := k.inFifo.trans h.inFifo
  outFifo := k.outFifo.trans h.outFifo
  cmdLo := k.cmdLo.trans h.cmdLo
  busy := k.busy.trans h.busy
  jobL := k.jobL.trans h.jobL
  jobX := k.jobX.trans h.jobX
  telemGr := k.telemGr.trans h.telemGr
  telemFlat := k.telemFlat.trans h.telemFlat
  telemSeq := k.telemSeq.trans h.telemSeq
  telemPhase := k.telemPhase.trans h.telemPhase
  agenda := k.agenda.trans h.agenda
  busData := k.busData.trans h.busData

end SampleFrame

/-- `t` differs from `s` at most in what a frame writes: the internal memories but for the input ring, the
estimator counters, the score and `ERR`. -/
structure PipelineFrame (s t : State) : Prop extends SampleFrame s t where
  idx : t.idx = s.idx
  warm : t.warm = s.warm
  hopPhase : t.hopPhase = s.hopPhase
  gateMult : t.gateMult = s.gateMult
  inRing : t.mem.inRing = s.mem.inRing

namespace PipelineFrame

theorem refl (s : State) : PipelineFrame s s := by
  refine ⟨SampleFrame.refl s, ?_, ?_, ?_, ?_, ?_⟩ <;> rfl

theorem trans {s t u : State} (h : PipelineFrame s t) (k : PipelineFrame t u) : PipelineFrame s u where
  toSampleFrame := h.toSampleFrame.trans k.toSampleFrame
  idx := k.idx.trans h.idx
  warm := k.warm.trans h.warm
  hopPhase := k.hopPhase.trans h.hopPhase
  gateMult := k.gateMult.trans h.gateMult
  inRing := k.inRing.trans h.inRing

end PipelineFrame

theorem seterr_frame (c : ErrCause) (s : State) : PipelineFrame s (seterr c s) := by
  refine ⟨?_, ?_, ?_, ?_, ?_, ?_⟩ <;> first | rfl | (constructor <;> rfl)

theorem seterrIf_frame (b : Bool) (c : ErrCause) (s : State) : PipelineFrame s (seterrIf b c s) := by
  cases b
  · exact PipelineFrame.refl s
  · exact seterr_frame c s

theorem outWrite_frame (P : Params) (i : Nat) (v : F64) (s : State) :
    PipelineFrame s (outWrite P i v s) := by
  refine ⟨?_, ?_, ?_, ?_, ?_, ?_⟩ <;> first | rfl | (constructor <;> rfl)

theorem vadUpdate_frame (P : Params) (pw : List F64) (s : State) :
    PipelineFrame s (vadUpdate P pw s) := by
  refine ⟨?_, ?_, ?_, ?_, ?_, ?_⟩ <;> first | rfl | (constructor <;> rfl)

theorem gainUpdate_frame (P : Params) (pw : List F64) (s : State) :
    PipelineFrame s (gainUpdate P pw s) := by
  refine ⟨?_, ?_, ?_, ?_, ?_, ?_⟩ <;> first | rfl | (constructor <;> rfl)

theorem smootherUpdate_frame (P : Params) (g : List F64) (s : State) :
    PipelineFrame s (smootherUpdate P g s) := by
  refine ⟨?_, ?_, ?_, ?_, ?_, ?_⟩ <;> first | rfl | (constructor <;> rfl)

theorem countFrame_frame (s : State) : PipelineFrame s (countFrame s) := by
  refine ⟨?_, ?_, ?_, ?_, ?_, ?_⟩ <;> first | rfl | (constructor <;> rfl)

theorem legacyUpdate_frame (P : Params) (pw : List F64) (s : State) :
    PipelineFrame s (legacyUpdate P pw s) := by
  unfold legacyUpdate
  refine PipelineFrame.trans ?_ (seterrIf_frame _ _ _)
  refine ⟨?_, ?_, ?_, ?_, ?_, ?_⟩ <;> first | rfl | (constructor <;> rfl)

theorem advancedUpdate_frame (P : Params) (pw : List F64) (s : State) :
    PipelineFrame s (advancedUpdate P pw s) := by
  unfold advancedUpdate
  refine PipelineFrame.trans ?_ (seterrIf_frame _ _ _)
  refine ⟨?_, ?_, ?_, ?_, ?_, ?_⟩ <;> first | rfl | (constructor <;> rfl)

theorem noiseUpdate_frame (P : Params) (pw : List F64) (s : State) :
    PipelineFrame s (noiseUpdate P pw s) := by
  unfold noiseUpdate
  split
  · exact (countFrame_frame s).trans (legacyUpdate_frame P pw _)
  · exact (countFrame_frame s).trans (advancedUpdate_frame P pw _)

theorem overlapAdd_frame (P : Params) (base : Nat) (z : Spectrum) (s : State) :
    PipelineFrame s (overlapAdd P base z s) := by
  unfold overlapAdd
  induction List.range P.n generalizing s with
  | nil => exact PipelineFrame.refl s
  | cons i is ih => exact (outWrite_frame P _ _ s).trans (ih _)

theorem frameAnalysis_frame (P : Params) (start : Nat) (s : State) :
    PipelineFrame s (frameAnalysis P start s).2.2 := by
  unfold frameAnalysis
  exact ((seterrIf_frame _ _ s).trans (vadUpdate_frame P _ _)).trans (noiseUpdate_frame P _ _)

theorem frameGains_frame (P : Params) (pw : List F64) (s : State) :
    PipelineFrame s (frameGains P pw s).2 := by
  unfold frameGains
  dsimp only
  split
  · exact (gainUpdate_frame P pw s).trans (smootherUpdate_frame P _ _)
  · exact gainUpdate_frame P pw s

/-- A frame writes nothing the host side, the sequencer, the gate or the input ring holds. -/
theorem frame_frame (P : Params) (start base : Nat) (s : State) :
    PipelineFrame s (frame P start base s) := by
  unfold frame
  exact ((frameAnalysis_frame P start s).trans (frameGains_frame P _ _)).trans
    (overlapAdd_frame P base _ _)

theorem advanceScheduler_sampleFrame (P : Params) (s : State) :
    SampleFrame s (advanceScheduler P s) := by
  unfold advanceScheduler
  split <;> (constructor <;> rfl)

theorem inWrite_sampleFrame (P : Params) (i : Nat) (w : Word) (s : State) :
    SampleFrame s (inWrite P i w s) := by
  constructor <;> rfl

theorem gateMultStep_sampleFrame (P : Params) (s : State) : SampleFrame s (gateMultStep P s) := by
  constructor <;> rfl

theorem selectOutput_frame (P : Params) (xw : Word) (warm0 i0 : Nat) (ola : F64) (s : State) :
    PipelineFrame s (selectOutput P xw warm0 i0 ola s).1 := by
  unfold selectOutput
  split
  · exact PipelineFrame.refl s
  · split
    · exact PipelineFrame.refl s
    · split
      · exact PipelineFrame.refl s
      · exact seterr_frame _ s

theorem sampleInput_sampleFrame (P : Params) (xw : Word) (s : State) :
    SampleFrame s (sampleInput P xw s) := by
  unfold sampleInput
  have h := (inWrite_sampleFrame P s.idx xw s).trans (advanceScheduler_sampleFrame P _)
  dsimp only
  split
  · exact h.trans (frame_frame P _ _ _).toSampleFrame
  · exact h

/-- A sample step writes nothing the host side or the gate's state machine holds. -/
theorem sampleStep_sampleFrame (P : Params) (xw : Word) (s : State) :
    SampleFrame s (sampleStep P xw s).1 := by
  unfold sampleStep
  exact (((sampleInput_sampleFrame P xw s).trans (gateMultStep_sampleFrame P _)).trans
    (outWrite_frame P _ _ _).toSampleFrame).trans (selectOutput_frame P _ _ _ _ _).toSampleFrame

/-- Neither does the sample loop of a block. -/
theorem runSamples_sampleFrame (P : Params) (xs : List Word) (s : State) :
    SampleFrame s (runSamples P xs s).1 := by
  induction xs generalizing s with
  | nil => exact SampleFrame.refl s
  | cons x xs ih => exact (sampleStep_sampleFrame P x s).trans (ih _)

/-- The sample loop gives one output word per input word. -/
theorem runSamples_length (P : Params) (xs : List Word) (s : State) :
    (runSamples P xs s).2.length = xs.length := by
  induction xs generalizing s with
  | nil => rfl
  | cons x xs ih => simp [runSamples, ih]

/-! ## Gate transition and telemetry: everything they can do -/

theorem gateBlockUpdate_cases (P : Params) (l : Word) (s : State) :
    (F64.lt s.sflat (threshold P s.cfg) = true
        ∧ gateBlockUpdate P l s = { s with gateOpen := true, hold := P.holdSamples s.cfg.profile })
      ∨ (F64.lt s.sflat (threshold P s.cfg) = false
        ∧ gateBlockUpdate P l s = { s with
            hold := holdAfter s.hold l
            gateOpen := if holdAfter s.hold l = 0 then false else s.gateOpen }) := by
  unfold gateBlockUpdate
  cases h : F64.lt s.sflat (threshold P s.cfg) <;> simp

/-- The hold counter after a block with the score high, as a number: it saturates at 0. -/
theorem holdAfter_toNat (hold l : Word) : (holdAfter hold l).toNat = hold.toNat - l.toNat := by
  unfold holdAfter
  split
  · rename_i h
    simp
    omega
  · rename_i h
    rw [BitVec.toNat_sub_of_le (BitVec.le_def.2 (by omega))]

theorem telemetryUpdate_cases (P : Params) (s : State) :
    (s.cfg.enabled = false ∧ telemetryUpdate P s = s)
      ∨ (s.cfg.enabled = true ∧ nextTelemPhase P s = 0 ∧ telemetryUpdate P s = { s with
          telemPhase := 0
          telemGr := r32 (F64.sub F64.one s.gateMult)
          telemFlat := r32 s.sflat
          telemSeq := s.telemSeq + 1 })
      ∨ (s.cfg.enabled = true ∧ nextTelemPhase P s ≠ 0
        ∧ telemetryUpdate P s = { s with telemPhase := nextTelemPhase P s }) := by
  unfold telemetryUpdate
  cases he : s.cfg.enabled
  · exact .inl ⟨rfl, rfl⟩
  · by_cases h : nextTelemPhase P s = 0
    · exact .inr (.inl ⟨rfl, h, by simp [h]⟩)
    · exact .inr (.inr ⟨rfl, h, by simp [h]⟩)

/-! ## The sequencer and the input ring over a sample step -/

/-- The sequencer after a sample step is what `advance_scheduler` makes of it. -/
theorem sampleInput_seq (P : Params) (xw : Word) (s : State) :
    (sampleInput P xw s).idx = (advanceScheduler P s).idx
      ∧ (sampleInput P xw s).warm = (advanceScheduler P s).warm
      ∧ (sampleInput P xw s).hopPhase = (advanceScheduler P s).hopPhase := by
  have h : ∀ t : State, t.idx = s.idx → t.warm = s.warm → t.hopPhase = s.hopPhase →
      (advanceScheduler P t).idx = (advanceScheduler P s).idx
        ∧ (advanceScheduler P t).warm = (advanceScheduler P s).warm
        ∧ (advanceScheduler P t).hopPhase = (advanceScheduler P s).hopPhase := by
    intro t h1 h2 h3
    unfold advanceScheduler
    rw [h1, h2, h3]
    split <;> simp
  have h' := h (inWrite P s.idx xw s) rfl rfl rfl
  unfold sampleInput
  dsimp only
  split
  · have f := frame_frame P ((advanceScheduler P (inWrite P s.idx xw s)).idx + P.n)
      (advanceScheduler P (inWrite P s.idx xw s)).idx (advanceScheduler P (inWrite P s.idx xw s))
    exact ⟨f.idx.trans h'.1, f.warm.trans h'.2.1, f.hopPhase.trans h'.2.2⟩
  · exact h'

theorem sampleStep_seq (P : Params) (xw : Word) (s : State) :
    (sampleStep P xw s).1.idx = (advanceScheduler P s).idx
      ∧ (sampleStep P xw s).1.warm = (advanceScheduler P s).warm
      ∧ (sampleStep P xw s).1.hopPhase = (advanceScheduler P s).hopPhase := by
  have h := sampleInput_seq P xw s
  have f := selectOutput_frame P xw s.warm s.idx
    (outRead P (gateMultStep P (sampleInput P xw s)) s.idx)
    (outWrite P s.idx F64.zero (gateMultStep P (sampleInput P xw s)))
  unfold sampleStep
  exact ⟨f.idx.trans h.1, f.warm.trans h.2.1, f.hopPhase.trans h.2.2⟩

/-- A sample step writes the input ring at `IDX` only, with the input word. -/
theorem sampleStep_inRing (P : Params) (xw : Word) (s : State) :
    (sampleStep P xw s).1.mem.inRing = s.mem.inRing.set (s.idx % (2 * P.n)) xw := by
  have a : (advanceScheduler P (inWrite P s.idx xw s)).mem.inRing
      = s.mem.inRing.set (s.idx % (2 * P.n)) xw := by
    unfold advanceScheduler
    split <;> rfl
  have h : (sampleInput P xw s).mem.inRing = s.mem.inRing.set (s.idx % (2 * P.n)) xw := by
    unfold sampleInput
    dsimp only
    split
    · exact (frame_frame P _ _ _).inRing.trans a
    · exact a
  have f := selectOutput_frame P xw s.warm s.idx
    (outRead P (gateMultStep P (sampleInput P xw s)) s.idx)
    (outWrite P s.idx F64.zero (gateMultStep P (sampleInput P xw s)))
  unfold sampleStep
  exact f.inRing.trans h

end Sys2Proof.Machine
end

