-- ==== Sys2Proof/Laws/Memory.lean ====
section
/-! SUPPORT. Every operation keeps the one form the internal memories have (`Memory.wf`, R61). -/

namespace Sys2Proof.Machine

@[simp] theorem perBin_length (nb : Nat) (f : Nat → F64) : (perBin nb f).length = nb := by
  simp [perBin]

/-- Element `k` of an array computed bin by bin. -/
theorem elem_perBin {nb k : Nat} (f : Nat → F64) (h : k < nb) : elem (perBin nb f) k = f k := by
  simp [elem, perBin, h]

/-- The memories after power-on reset have the form. -/
theorem Memory.por_wf (P : Params) : Memory.wf P (Memory.por P) := by
  refine ⟨?_, ?_, ?_, ?_, ?_, ?_, ?_, ?_, ?_⟩ <;> simp [Memory.por]

/-- The adaptive reset keeps the form. -/
theorem Memory.resetAdaptive_wf {P : Params} {m : Memory} (h : Memory.wf P m) :
    Memory.wf P (m.resetAdaptive P) := by
  obtain ⟨h1, h2, -⟩ := h
  obtain ⟨-, -, k⟩ := Memory.por_wf P
  exact ⟨h1, h2, k⟩

theorem inWrite_wf {P : Params} {s : State} (i : Nat) (w : Word) (h : Memory.wf P s.mem) :
    Memory.wf P (inWrite P i w s).mem := by
  obtain ⟨h1, h⟩ := h
  exact ⟨by simpa using h1, h⟩

theorem outWrite_wf {P : Params} {s : State} (i : Nat) (v : F64) (h : Memory.wf P s.mem) :
    Memory.wf P (outWrite P i v s).mem := by
  obtain ⟨h1, h2, h⟩ := h
  exact ⟨h1, by simpa using h2, h⟩

theorem seterrIf_mem (b : Bool) (c : ErrCause) (s : State) : (seterrIf b c s).mem = s.mem := by
  cases b <;> rfl

theorem advanceScheduler_mem (P : Params) (s : State) : (advanceScheduler P s).mem = s.mem := by
  unfold advanceScheduler
  split <;> rfl

theorem gainUpdate_wf {P : Params} {s : State} (pw : List F64) (h : Memory.wf P s.mem) :
    Memory.wf P (gainUpdate P pw s).mem := by
  obtain ⟨h1, h2, h3, h4, h5, h6, h7, _, h9⟩ := h
  exact ⟨h1, h2, h3, h4, h5, h6, h7, by simp [newPrevGain], h9⟩

theorem smootherUpdate_wf {P : Params} {s : State} (g : List F64) (h : Memory.wf P s.mem) :
    Memory.wf P (smootherUpdate P g s).mem := by
  obtain ⟨h1, h2, h3, h4, h5, h6, h7, h8, _⟩ := h
  exact ⟨h1, h2, h3, h4, h5, h6, h7, h8, by simp⟩

/-- Rows of the right length stay so when one is replaced by a row of the right length. -/
theorem rows_set_length {nb i : Nat} {rows : List (List F64)} {r : List F64}
    (h : ∀ row ∈ rows, row.length = nb) (hr : r.length = nb) :
    ∀ row ∈ rows.set i r, row.length = nb := by
  intro row hm
  rcases List.mem_or_eq_of_mem_set hm with hm | rfl
  · exact h row hm
  · exact hr

theorem legacyUpdate_wf {P : Params} {s : State} (pw : List F64) (h : Memory.wf P s.mem) :
    Memory.wf P (legacyUpdate P pw s).mem := by
  obtain ⟨h1, h2, _, _, _, h6, h7, h8, h9⟩ := h
  unfold legacyUpdate
  rw [seterrIf_mem]
  exact ⟨h1, h2, by simp, by simp, by simp, h6, h7, h8, h9⟩

theorem advancedUpdate_wf {P : Params} {s : State} (pw : List F64) (h : Memory.wf P s.mem) :
    Memory.wf P (advancedUpdate P pw s).mem := by
  obtain ⟨h1, h2, _, _, h5, h6, h7, h8, h9⟩ := h
  unfold advancedUpdate
  rw [seterrIf_mem]
  have ht := rows_set_length (i := s.subPtr) h7
    (perBin_length P.nb (fun k => F64.min (subminAt s.mem.submin s.subPtr k)
      (elem ((perBin P.nb (fun k => advancedSmooth s.cfg (elem s.mem.sig k) (elem pw k))).map
        (guardValue P)) k)))
  refine ⟨h1, h2, by simp, by simp, h5, ?_, ?_, h8, h9⟩
  · dsimp only
    split <;> simpa [trackMinima] using h6
  · dsimp only
    split
    · exact rows_set_length ht (by simp)
    · exact ht

theorem noiseUpdate_wf {P : Params} {s : State} (pw : List F64) (h : Memory.wf P s.mem) :
    Memory.wf P (noiseUpdate P pw s).mem := by
  unfold noiseUpdate
  split
  · exact legacyUpdate_wf (s := countFrame s) pw h
  · exact advancedUpdate_wf (s := countFrame s) pw h

theorem overlapAdd_wf {P : Params} (base : Nat) (z : Spectrum) {s : State} (h : Memory.wf P s.mem) :
    Memory.wf P (overlapAdd P base z s).mem := by
  unfold overlapAdd
  induction List.range P.n generalizing s with
  | nil => exact h
  | cons i is ih => exact ih (outWrite_wf _ _ h)

theorem frameGains_wf {P : Params} (pw : List F64) {s : State} (h : Memory.wf P s.mem) :
    Memory.wf P (frameGains P pw s).2.mem := by
  unfold frameGains
  dsimp only
  split
  · exact smootherUpdate_wf _ (gainUpdate_wf pw h)
  · exact gainUpdate_wf pw h

theorem frame_wf {P : Params} (start base : Nat) {s : State} (h : Memory.wf P s.mem) :
    Memory.wf P (frame P start base s).mem := by
  unfold frame frameAnalysis
  refine overlapAdd_wf _ _ (frameGains_wf _ (noiseUpdate_wf _ ?_))
  rw [vadUpdate_mem, seterrIf_mem]
  exact h

theorem selectOutput_mem (P : Params) (xw : Word) (warm0 i0 : Nat) (ola : F64) (s : State) :
    (selectOutput P xw warm0 i0 ola s).1.mem = s.mem := by
  unfold selectOutput
  split
  · rfl
  · split
    · rfl
    · split <;> rfl

theorem sampleStep_wf {P : Params} (xw : Word) {s : State} (h : Memory.wf P s.mem) :
    Memory.wf P (sampleStep P xw s).1.mem := by
  have h1 : Memory.wf P (advanceScheduler P (inWrite P s.idx xw s)).mem := by
    rw [advanceScheduler_mem]
    exact inWrite_wf _ _ h
  unfold sampleStep
  rw [selectOutput_mem]
  refine outWrite_wf _ _ ?_
  rw [gateMultStep_mem]
  unfold sampleInput
  dsimp only
  split
  · exact frame_wf _ _ h1
  · exact h1

theorem runSamples_wf {P : Params} (xs : List Word) {s : State} (h : Memory.wf P s.mem) :
    Memory.wf P (runSamples P xs s).1.mem := by
  induction xs generalizing s with
  | nil => exact h
  | cons x xs ih => exact ih (sampleStep_wf x h)

theorem gateBlockUpdate_mem (P : Params) (l : Word) (s : State) :
    (gateBlockUpdate P l s).mem = s.mem := by
  unfold gateBlockUpdate
  split <;> rfl

theorem telemetryUpdate_mem (P : Params) (s : State) : (telemetryUpdate P s).mem = s.mem := by
  unfold telemetryUpdate
  split
  · rfl
  · split <;> rfl

theorem engineBlock_wf {P : Params} {s : State} (h : Memory.wf P s.mem) :
    Memory.wf P (engineBlock P s).mem := by
  unfold engineBlock
  dsimp only
  rw [complete_mem, telemetryUpdate_mem]
  refine runSamples_wf _ ?_
  rw [gateBlockUpdate_mem]
  exact h

theorem drainPending_wf {P : Params} {s : State} (h : Memory.wf P s.mem) :
    Memory.wf P (drainPending P s).mem := by
  unfold drainPending
  dsimp only
  split
  · exact Memory.resetAdaptive_wf h
  · exact h

theorem accept_wf {P : Params} {s : State} (l : Word) (h : Memory.wf P s.mem) :
    Memory.wf P (accept P l s).mem := by
  exact drainPending_wf (s := s) h

theorem processCommand_wf {P : Params} {s : State} (l : Word) (h : Memory.wf P s.mem) :
    Memory.wf P (processCommand P l s).mem := by
  unfold processCommand
  split
  · exact h
  · split
    · exact accept_wf l h
    · exact h

end Sys2Proof.Machine
end

