-- ==== Sys2Proof/Laws/Float.lean ====
section
/-! SUPPORT. What the comparisons, `min`, `max` and the guard of R151 can answer. -/

namespace Sys2Proof

/-- A value that is not finite, or is finite, is settled by its magnitude; a finite one is no NaN. -/
theorem F64.isNaN_of_isFinite {x : F64} (h : x.isFinite = true) : x.isNaN = false := by
  simp only [F64.isFinite, decide_eq_true_eq] at h
  simp only [F64.isNaN, decide_eq_false_iff_not]
  omega

@[simp] theorem F64.lt_self (x : F64) : F64.lt x x = false := by
  simp [F64.lt]

/-- `max` answers one of its arguments. -/
theorem F64.max_cases (a b : F64) :
    (F64.lt a b = true ∧ F64.max a b = b) ∨ (F64.lt a b = false ∧ F64.max a b = a) := by
  unfold F64.max
  cases h : F64.lt a b <;> simp

/-- `min` answers one of its arguments. -/
theorem F64.min_cases (a b : F64) :
    (F64.lt b a = true ∧ F64.min a b = b) ∨ (F64.lt b a = false ∧ F64.min a b = a) := by
  unfold F64.min
  cases h : F64.lt b a <;> simp

/-- `lt` on values that are not NaN is the order of ranks. -/
theorem F64.lt_eq_rank {x y : F64} (hx : x.isNaN = false) (hy : y.isNaN = false) :
    F64.lt x y = decide (x.rank < y.rank) := by
  simp [F64.lt, hx, hy]

/-- `ge` on values that are not NaN is the order of ranks. -/
theorem F64.ge_eq_rank {x y : F64} (hx : x.isNaN = false) (hy : y.isNaN = false) :
    F64.ge x y = decide (y.rank ≤ x.rank) := by
  simp [F64.ge, hx, hy]

theorem F64.isNaN_of_ge {x y : F64} (h : F64.ge x y = true) : x.isNaN = false ∧ y.isNaN = false := by
  simp only [F64.ge, Bool.and_eq_true, Bool.not_eq_true'] at h
  exact h.1

namespace Machine

/-- The guard of R151 answers a finite value that is at least `EPS`. -/
theorem guardValue_spec {P : Params} (h : P.eps.isFinite = true) (v : F64) :
    (guardValue P v).isFinite = true ∧ F64.ge (guardValue P v) P.eps = true := by
  have hn := F64.isNaN_of_isFinite h
  unfold guardValue
  split
  case isTrue hv =>
    have hvn := F64.isNaN_of_isFinite hv
    rcases F64.max_cases v P.eps with ⟨hl, he⟩ | ⟨hl, he⟩ <;> rw [he]
    · exact ⟨h, by simp [F64.ge, hn]⟩
    · refine ⟨hv, ?_⟩
      rw [F64.lt_eq_rank hvn hn] at hl
      rw [F64.ge_eq_rank hvn hn]
      simp only [decide_eq_false_iff_not, not_lt] at hl
      simpa using hl
  case isFalse hv =>
    rcases F64.max_cases P.eps P.eps with ⟨_, he⟩ | ⟨_, he⟩ <;> rw [he] <;>
      exact ⟨h, by simp [F64.ge, hn]⟩

end Machine

end Sys2Proof
end

