-- ==== Sys2Proof/Laws/Rounding.lean ====
section
/-! SUPPORT. Rounding is exact where the number fits the significand; a binary32 word survives the way through
binary64 (R10); what `clamp` can answer. -/

namespace Sys2Proof

/-! ## Exact rounding -/

theorem F64.ofSignMag_toNat (neg : Bool) {m : Nat} (h : m < 2 ^ 63) :
    (F64.ofSignMag neg m).bits.toNat = if neg then 2 ^ 63 + m else m := by
  cases neg <;> simp only [F64.ofSignMag, BitVec.toNat_ofNat] <;> norm_num <;> omega

theorem F64.isNeg_ofSignMag (neg : Bool) {m : Nat} (h : m < 2 ^ 63) :
    (F64.ofSignMag neg m).isNeg = neg := by
  unfold F64.isNeg
  rw [F64.ofSignMag_toNat neg h]
  cases neg <;> simp <;> omega

theorem F64.mag_ofSignMag (neg : Bool) {m : Nat} (h : m < 2 ^ 63) :
    (F64.ofSignMag neg m).mag = m := by
  unfold F64.mag
  rw [F64.ofSignMag_toNat neg h]
  cases neg <;> simp <;> omega

theorem roundMag_exact {p n k q : Nat} (hk : k = n.log2 - (p - 1)) (hq : n = q * 2 ^ k) :
    roundMag p n 1 = k * 2 ^ (p - 1) + q := by
  have h2 : 0 < 2 ^ k := Nat.two_pow_pos k
  unfold roundMag
  rw [Nat.div_one, ← hk]
  simp only [Nat.shiftLeft_eq, Nat.one_mul]
  have hm : n % 2 ^ k = 0 := by rw [hq]; exact Nat.mul_mod_left _ _
  have hd : n / 2 ^ k = q := by rw [hq]; exact Nat.mul_div_cancel _ h2
  rw [hm, hd, if_neg]
  omega

/-- Rounding a whole number of units that fits the significand changes nothing. -/
theorem F64.val_round_exact (neg : Bool) {n k q : Nat} (hk : k = n.log2 - 52) (hq : n = q * 2 ^ k)
    (hn : n < 2 ^ 2098) : (F64.round neg n 1).val = .fin neg n := by
  have hq53 : q < 2 ^ 53 := by
    by_contra hc
    have h1 : 2 ^ 53 * 2 ^ k ≤ n := by rw [hq]; exact Nat.mul_le_mul_right _ (by omega)
    rw [← Nat.pow_add] at h1
    have hn0 : n ≠ 0 := by have := Nat.two_pow_pos (53 + k); omega
    have := (Nat.le_log2 hn0).2 h1
    omega
  have hq52 : 0 < k → 2 ^ 52 ≤ q := by
    intro hk0
    have hn0 : n ≠ 0 := by
      rintro rfl
      simp at hk
      omega
    have h1 : 2 ^ (52 + k) ≤ n := by
      have := Nat.log2_self_le hn0
      have e : 52 + k = n.log2 := by omega
      rw [e]; exact this
    rw [hq, Nat.pow_add] at h1
    exact Nat.le_of_mul_le_mul_right h1 (Nat.two_pow_pos k)
  have hk2 : k ≤ 2045 := by
    by_cases hn0 : n = 0
    · subst hn0; simp at hk; omega
    · have := (Nat.log2_lt hn0).2 hn
      omega
  have hr : roundMag 53 n 1 = k * 2 ^ 52 + q := roundMag_exact (p := 53) hk hq
  unfold F64.round
  rw [hr]
  have hmin : Nat.min (k * 2 ^ 52 + q) F64.infMag = k * 2 ^ 52 + q := by
    apply Nat.min_eq_left
    unfold F64.infMag
    omega
  rw [hmin]
  have hlt : k * 2 ^ 52 + q < 0x7FF0000000000000 := by omega
  unfold F64.val
  have hm := F64.mag_ofSignMag neg (m := k * 2 ^ 52 + q) (by omega)
  have hs := F64.isNeg_ofSignMag neg (m := k * 2 ^ 52 + q) (by omega)
  have hnan : (F64.ofSignMag neg (k * 2 ^ 52 + q)).isNaN = false := by
    unfold F64.isNaN F64.infMag; rw [hm]; simp; omega
  have hfin : (F64.ofSignMag neg (k * 2 ^ 52 + q)).isFinite = true := by
    unfold F64.isFinite F64.infMag; rw [hm]; simp; omega
  simp only [hm, hs, hnan, hfin]
  rw [Nat.shiftRight_eq_div_pow]
  by_cases hk0 : k = 0
  · subst hk0
    simp only [Nat.zero_mul, Nat.zero_add, Nat.pow_zero, Nat.mul_one] at *
    subst hq
    by_cases h52 : n < 2 ^ 52
    · have h0 : n / 2 ^ 52 = 0 := by omega
      have h1 : n % 2 ^ 52 = n := by omega
      rw [h0, h1]
      rfl
    · have h0 : n / 2 ^ 52 = 1 := by omega
      have h1 : n % 2 ^ 52 = n - 2 ^ 52 := by omega
      simp only [h0, h1]
      simp
      omega
  · have h3 := hq52 (by omega)
    have h0 : (k * 2 ^ 52 + q) / 2 ^ 52 = k + 1 := by omega
    have h1 : (k * 2 ^ 52 + q) % 2 ^ 52 = q - 2 ^ 52 := by omega
    simp only [h0, h1]
    simp only [Nat.add_sub_cancel, Nat.shiftLeft_eq]
    have e : 2 ^ 52 + (q - 2 ^ 52) = q := by omega
    rw [e, ← hq]
    simp

theorem log2_mul_pow {f j : Nat} (hf : f ≠ 0) : (f * 2 ^ j).log2 = f.log2 + j := by
  rw [Nat.log2_eq_iff (by positivity)]
  have h := (Nat.log2_eq_iff (k := f.log2) hf).1 rfl
  constructor
  · rw [Nat.pow_add]; exact Nat.mul_le_mul_right _ h.1
  · rw [show f.log2 + j + 1 = f.log2 + 1 + j by omega, Nat.pow_add _ (f.log2 + 1)]
    exact Nat.mul_lt_mul_of_pos_right h.2 (Nat.two_pow_pos j)

theorem F64.val_round_shift (neg : Bool) {f j : Nat} (hf : f < 2 ^ 53) (hj : 52 ≤ j) (hj2 : j ≤ 2045) :
    (F64.round neg (f <<< j) 1).val = .fin neg (f <<< j) := by
  rw [Nat.shiftLeft_eq]
  have hb : f * 2 ^ j < 2 ^ 2098 := by
    calc f * 2 ^ j < 2 ^ 53 * 2 ^ j := Nat.mul_lt_mul_of_pos_right hf (Nat.two_pow_pos j)
      _ = 2 ^ (53 + j) := by rw [Nat.pow_add]
      _ ≤ 2 ^ 2098 := Nat.pow_le_pow_right (by omega) (by omega)
  by_cases h0 : f = 0
  · subst h0
    exact F64.val_round_exact neg (n := 0 * 2 ^ j) (k := 0) (q := 0) (by simp) (by simp) hb
  · have hl : f.log2 < 53 := (Nat.log2_lt h0).2 hf
    refine F64.val_round_exact neg (k := f.log2 + j - 52) (q := f * 2 ^ (52 - f.log2)) ?_ ?_ hb
    · rw [log2_mul_pow h0]
    · rw [Nat.mul_assoc, ← Nat.pow_add]
      congr 2
      omega

theorem isNaN32_mag {w : Word} (h : isNaN32 w = false) : mag32 w ≤ 0x7F800000 := by
  simpa [isNaN32] using h

theorem word32_self (w : Word) : word32 (isNeg32 w) (mag32 w) = w := by
  apply BitVec.eq_of_toNat_eq
  have := w.isLt
  unfold word32 isNeg32 mag32
  rw [BitVec.toNat_ofNat]
  by_cases h : 2 ^ 31 ≤ w.toNat
  · rw [if_pos (by simpa using h)]; omega
  · rw [if_neg (by simpa using h)]; omega

theorem roundMag_of_shift {f e : Nat} (hf : f < 2 ^ 24) (he : e = 0 ∨ 2 ^ 23 ≤ f) :
    roundMag 24 (f <<< (e + 925)) (2 ^ 925) = e * 2 ^ 23 + f := by
  unfold roundMag
  have hn : f <<< (e + 925) / 2 ^ 925 = f * 2 ^ e := by
    rw [Nat.shiftLeft_eq, Nat.pow_add, ← Nat.mul_assoc]
    exact Nat.mul_div_cancel _ (Nat.two_pow_pos _)
  have hl : (f * 2 ^ e).log2 - (24 - 1) = e := by
    rcases he with rfl | he
    · rw [Nat.pow_zero, Nat.mul_one]
      by_cases h0 : f = 0
      · subst h0; simp
      · have := (Nat.log2_lt h0).2 hf
        omega
    · have h0 : f ≠ 0 := by omega
      rw [log2_mul_pow h0]
      have h1 := (Nat.log2_lt h0).2 hf
      have h2 := (Nat.le_log2 h0).2 he
      omega
  rw [hn, hl]
  have hu : (2 ^ 925) <<< e = 2 ^ (e + 925) := by
    rw [Nat.shiftLeft_eq, ← Nat.pow_add]; congr 1; omega
  have hq : f <<< (e + 925) / 2 ^ (e + 925) = f := by
    rw [Nat.shiftLeft_eq]; exact Nat.mul_div_cancel _ (Nat.two_pow_pos _)
  have hr : f <<< (e + 925) % 2 ^ (e + 925) = 0 := by
    rw [Nat.shiftLeft_eq]; exact Nat.mul_mod_left _ _
  simp only [hu, hq, hr]
  have := Nat.two_pow_pos (e + 925)
  rw [if_neg (by omega), Nat.shiftLeft_eq]

/-- A binary32 word that is not a NaN survives the conversion to binary64 and back (R10: `f64` is exact). -/
theorem r32_f64 {w : Word} (h : isNaN32 w = false) : r32 (f64 w) = w := by
  have hm := isNaN32_mag h
  conv_rhs => rw [← word32_self w]
  unfold f64
  simp only [h]
  simp only [Nat.shiftRight_eq_div_pow]
  by_cases h255 : mag32 w / 2 ^ 23 = 255
  · have : mag32 w = 0x7F800000 := by omega
    rw [this]
    cases isNeg32 w <;> decide +kernel
  · by_cases h0 : mag32 w / 2 ^ 23 = 0
    · have hf : mag32 w % 2 ^ 23 = mag32 w := by omega
      simp only [h0, hf]
      simp only [Bool.false_eq_true, ↓reduceIte, OfNat.zero_ne_ofNat]
      unfold r32
      rw [F64.val_round_shift _ (by omega) (by omega) (by omega)]
      have := roundMag_of_shift (f := mag32 w) (e := 0) (by omega) (.inl rfl)
      simp only [Nat.zero_add, Nat.zero_mul] at this
      simp only [this]
      rw [show Nat.min (mag32 w) 0x7F800000 = mag32 w from Nat.min_eq_left hm]
    · simp only [h255, h0]
      simp only [Bool.false_eq_true, ↓reduceIte]
      unfold r32
      have he : mag32 w / 2 ^ 23 ≤ 254 := by omega
      rw [F64.val_round_shift _ (by omega) (by omega) (by omega)]
      have := roundMag_of_shift (f := 2 ^ 23 + mag32 w % 2 ^ 23) (e := mag32 w / 2 ^ 23 - 1) (by omega)
        (.inr (by omega))
      simp only [this]
      have hx : (mag32 w / 2 ^ 23 - 1) * 2 ^ 23 + (2 ^ 23 + mag32 w % 2 ^ 23) = mag32 w := by omega
      rw [hx, show Nat.min (mag32 w) 0x7F800000 = mag32 w from Nat.min_eq_left hm]


/-! ## Clamp -/

theorem F64.within_iff {x lo hi : F64} (hx : x.isNaN = false) (hl : lo.isNaN = false)
    (hh : hi.isNaN = false) : F64.within x lo hi = true ↔ lo.rank ≤ x.rank ∧ x.rank ≤ hi.rank := by
  simp [F64.within, F64.ge_eq_rank hx hl, F64.ge_eq_rank hh hx]

/-- Everything `clamp` can answer for a value and bounds that are not NaN. -/
theorem F64.clamp_cases {x lo hi : F64} (hx : x.isNaN = false) (hl : lo.isNaN = false)
    (hh : hi.isNaN = false) (hle : lo.rank ≤ hi.rank) :
    (F64.within x lo hi = true ∧ F64.clamp x lo hi = x)
      ∨ (F64.lt x lo = true ∧ F64.clamp x lo hi = lo)
      ∨ (F64.lt hi x = true ∧ F64.clamp x lo hi = hi) := by
  unfold F64.clamp
  rw [F64.within_iff hx hl hh, F64.lt_eq_rank hx hl, F64.lt_eq_rank hh hx]
  simp only [decide_eq_true_eq]
  rcases F64.max_cases x lo with ⟨h1, e1⟩ | ⟨h1, e1⟩ <;> rw [e1] <;>
    rw [F64.lt_eq_rank hx hl] at h1 <;>
    simp only [decide_eq_true_eq, decide_eq_false_iff_not] at h1
  · rcases F64.min_cases lo hi with ⟨h2, e2⟩ | ⟨h2, e2⟩ <;> rw [e2] <;>
      rw [F64.lt_eq_rank hh hl] at h2 <;>
      simp only [decide_eq_true_eq, decide_eq_false_iff_not] at h2
    · omega
    · exact .inr (.inl ⟨h1, rfl⟩)
  · rcases F64.min_cases x hi with ⟨h2, e2⟩ | ⟨h2, e2⟩ <;> rw [e2] <;>
      rw [F64.lt_eq_rank hh hx] at h2 <;>
      simp only [decide_eq_true_eq, decide_eq_false_iff_not] at h2
    · exact .inr (.inr ⟨h2, rfl⟩)
    · exact .inl ⟨by omega, rfl⟩

/-- The binary64 value of a word is a NaN only if the word is (R10). -/
theorem isNaN_f64 {w : Word} (h : isNaN32 w = false) : (f64 w).isNaN = false := by
  by_contra hc
  have h1 : r32 (f64 w) = 0x7FC00000 := by
    unfold r32 F64.val
    simp only [Bool.not_eq_false] at hc
    simp [hc]
  rw [r32_f64 h] at h1
  rw [h1] at h
  exact absurd h (by decide)
end Sys2Proof
end

