-- ==== Sys2Proof/Laws/Operands.lean ====
section
/-! SUPPORT. What each payload form can answer (R83, R85), said once. -/

namespace Sys2Proof.Machine

theorem boolOperand_legal {p : Word} (h : p.toNat ≤ 1) : boolOperand p = some (decide (p = 1)) := by
  have : p = 0 ∨ p = 1 := by
    rcases Nat.le_one_iff_eq_zero_or_eq_one.1 h with h | h
    · exact .inl (BitVec.eq_of_toNat_eq h)
    · exact .inr (BitVec.eq_of_toNat_eq h)
  rcases this with rfl | rfl <;> rfl

/-- A word other than a few small codes is none of them. -/
theorem word_ne_of_lt {p : Word} {n : Nat} (h : n < p.toNat) : p ≠ BitVec.ofNat 32 n := by
  rintro rfl
  rw [BitVec.toNat_ofNat] at h
  have := Nat.mod_le n (2 ^ 32)
  omega

theorem boolOperand_illegal {p : Word} (h : 1 < p.toNat) : boolOperand p = none := by
  have h0 := word_ne_of_lt (n := 0) (by omega : 0 < p.toNat)
  have h1 := word_ne_of_lt h
  simp_all [boolOperand]

theorem profileOperand_illegal {p : Word} (h : 1 < p.toNat) : profileOperand p = none := by
  have h0 := word_ne_of_lt (n := 0) (by omega : 0 < p.toNat)
  have h1 := word_ne_of_lt h
  simp_all [profileOperand]

theorem neMethodOperand_illegal {p : Word} (h : 1 < p.toNat) : neMethodOperand p = none := by
  have h0 := word_ne_of_lt (n := 0) (by omega : 0 < p.toNat)
  have h1 := word_ne_of_lt h
  simp_all [neMethodOperand]

theorem gainLawOperand_illegal {p : Word} (h : 2 < p.toNat) : gainLawOperand p = none := by
  have h0 := word_ne_of_lt (n := 0) (by omega : 0 < p.toNat)
  have h1 := word_ne_of_lt (n := 1) (by omega : 1 < p.toNat)
  have h2 := word_ne_of_lt h
  simp_all [gainLawOperand]

/-- Everything the form `F32` can answer for a word and a range given by two words: invalid for a NaN, the word
itself inside the range, the bound it passed outside it. -/
theorem f32Operand_cases {lo hi : F64} {wlo whi : Word} (hlo : f64 wlo = lo) (hhi : f64 whi = hi)
    (nlo : isNaN32 wlo = false) (nhi : isNaN32 whi = false) (hle : lo.rank ≤ hi.rank) (p : Word) :
    (isNaN32 p = true ∧ f32Operand lo hi p = none)
      ∨ (isNaN32 p = false ∧ F64.within (f64 p) lo hi = true ∧ f32Operand lo hi p = some p)
      ∨ (isNaN32 p = false ∧ F64.lt (f64 p) lo = true ∧ f32Operand lo hi p = some wlo)
      ∨ (isNaN32 p = false ∧ F64.lt hi (f64 p) = true ∧ f32Operand lo hi p = some whi) := by
  unfold f32Operand
  cases h : isNaN32 p
  · have el : r32 lo = wlo := by rw [← hlo]; exact r32_f64 nlo
    have eh : r32 hi = whi := by rw [← hhi]; exact r32_f64 nhi
    have kl : lo.isNaN = false := by rw [← hlo]; exact isNaN_f64 nlo
    have kh : hi.isNaN = false := by rw [← hhi]; exact isNaN_f64 nhi
    rcases F64.clamp_cases (isNaN_f64 h) kl kh hle with ⟨c, e⟩ | ⟨c, e⟩ | ⟨c, e⟩ <;> rw [e]
    · exact .inr (.inl ⟨rfl, c, by simp [r32_f64 h]⟩)
    · exact .inr (.inr (.inl ⟨rfl, c, by simp [el]⟩))
    · exact .inr (.inr (.inr ⟨rfl, c, by simp [eh]⟩))
  · exact .inl ⟨rfl, by simp⟩

/-- The two ends of a range are in it. -/
theorem within_left {lo hi : F64} (kl : lo.isNaN = false) (kh : hi.isNaN = false)
    (hle : lo.rank ≤ hi.rank) : F64.within lo lo hi = true :=
  (F64.within_iff kl kl kh).2 ⟨le_refl _, hle⟩

theorem within_right {lo hi : F64} (kl : lo.isNaN = false) (kh : hi.isNaN = false)
    (hle : lo.rank ≤ hi.rank) : F64.within hi lo hi = true :=
  (F64.within_iff kh kl kh).2 ⟨hle, le_refl _⟩

/-- What the form `F32` stores is in the range. -/
theorem f32Operand_within {lo hi : F64} {wlo whi : Word} (hlo : f64 wlo = lo) (hhi : f64 whi = hi)
    (nlo : isNaN32 wlo = false) (nhi : isNaN32 whi = false) (hle : lo.rank ≤ hi.rank) {p v : Word}
    (h : f32Operand lo hi p = some v) : F64.within (f64 v) lo hi = true := by
  have kl : lo.isNaN = false := by rw [← hlo]; exact isNaN_f64 nlo
  have kh : hi.isNaN = false := by rw [← hhi]; exact isNaN_f64 nhi
  rcases f32Operand_cases hlo hhi nlo nhi hle p with ⟨_, e⟩ | ⟨_, c, e⟩ | ⟨_, _, e⟩ | ⟨_, _, e⟩ <;>
    rw [e] at h <;> simp only [reduceCtorEq, Option.some.injEq] at h
  · subst h; exact c
  · subst h; rw [hlo]; exact within_left kl kh hle
  · subst h; rw [hhi]; exact within_right kl kh hle

/-! ## The four ranges -/

theorem f64_zero : f64 0x00000000 = F64.zero := by decide +kernel
theorem f64_one : f64 0x3F800000 = F64.one := by decide +kernel
theorem f64_two : f64 0x40000000 = F64.two := by decide +kernel
theorem f64_neg_two : f64 0xC0000000 = F64.neg F64.two := by decide +kernel

theorem strengthOperand_cases (p : Word) :
    (isNaN32 p = true ∧ strengthOperand p = none)
      ∨ (isNaN32 p = false ∧ F64.within (f64 p) F64.zero F64.two = true ∧ strengthOperand p = some p)
      ∨ (isNaN32 p = false ∧ F64.lt (f64 p) F64.zero = true ∧ strengthOperand p = some 0x00000000)
      ∨ (isNaN32 p = false ∧ F64.lt F64.two (f64 p) = true ∧ strengthOperand p = some 0x40000000) :=
  f32Operand_cases f64_zero f64_two (by decide) (by decide) (by decide) p

theorem sshapeOperand_cases (p : Word) :
    (isNaN32 p = true ∧ sshapeOperand p = none)
      ∨ (isNaN32 p = false ∧ F64.within (f64 p) (F64.neg F64.two) F64.two = true
          ∧ sshapeOperand p = some p)
      ∨ (isNaN32 p = false ∧ F64.lt (f64 p) (F64.neg F64.two) = true
          ∧ sshapeOperand p = some 0xC0000000)
      ∨ (isNaN32 p = false ∧ F64.lt F64.two (f64 p) = true ∧ sshapeOperand p = some 0x40000000) :=
  f32Operand_cases f64_neg_two f64_two (by decide) (by decide) (by decide +kernel) p

theorem bshapeOperand_cases (p : Word) :
    (isNaN32 p = true ∧ bshapeOperand p = none)
      ∨ (isNaN32 p = false ∧ F64.within (f64 p) F64.zero F64.one = true ∧ bshapeOperand p = some p)
      ∨ (isNaN32 p = false ∧ F64.lt (f64 p) F64.zero = true ∧ bshapeOperand p = some 0x00000000)
      ∨ (isNaN32 p = false ∧ F64.lt F64.one (f64 p) = true ∧ bshapeOperand p = some 0x3F800000) :=
  f32Operand_cases f64_zero f64_one (by decide) (by decide) (by decide) p

theorem gdepthOperand_cases (p : Word) :
    (isNaN32 p = true ∧ gdepthOperand p = none)
      ∨ (isNaN32 p = false ∧ F64.within (f64 p) F64.zero F64.one = true ∧ gdepthOperand p = some p)
      ∨ (isNaN32 p = false ∧ F64.lt (f64 p) F64.zero = true ∧ gdepthOperand p = some 0x00000000)
      ∨ (isNaN32 p = false ∧ F64.lt F64.one (f64 p) = true ∧ gdepthOperand p = some 0x3F800000) :=
  f32Operand_cases f64_zero f64_one (by decide) (by decide) (by decide) p

end Sys2Proof.Machine
end

