-- ==== Sys2Proof/Laws/Bus.lean ====
section
/-! SUPPORT. What a host access, a command and a step can do, each said once: later proofs cite these and do not
unfold the functions. -/

namespace Sys2Proof.Machine

/-! ## One step -/

@[simp] theorem step_engine (s : State) (h : s.agenda = []) : step s = .next (engineTurn Config.params s) := by
  simp [step, stepInstance, h]

theorem step_event (s : State) {e : Event} {rest : List Event} (h : s.agenda = e :: rest) :
    step s = runEvent Config.params e { s with agenda := rest } := by
  simp [step, stepInstance, h]

/-! ## Runs -/

theorem runSteps_next {k : Nat} {s t : State} (h : step s = .next t) :
    runSteps (k + 1) s = runSteps k t := by
  rw [runSteps, h]

/-- A run of one step is the step. -/
theorem runSteps_one (s : State) : runSteps 1 s = step s := by
  rw [runSteps]
  cases step s <;> rfl

/-- A run is a run of its first part followed by the rest. -/
theorem runSteps_add {j k : Nat} {s t : State} (h : runSteps j s = .next t) :
    runSteps (j + k) s = runSteps k t := by
  induction j generalizing s with
  | zero =>
    rw [runSteps] at h
    cases h
    rw [Nat.zero_add]
  | succ j ih =>
    rw [show j + 1 + k = (j + k) + 1 by omega, runSteps]
    rw [runSteps] at h
    split at h
    · exact ih h
    · cases h
    · cases h

/-! ## Accesses -/

theorem goodAccess_iff (o : BitVec 12) (size : Nat) :
    goodAccess o size = true ↔ size = 4 ∧ o.toNat % 4 = 0 := by
  simp [goodAccess]

theorem memRead_bad (P : Params) {o : BitVec 12} {size : Nat} (s : State) (h : goodAccess o size = false) :
    memRead P o size s = (0, seterr .badAccess s) := by
  simp [memRead, h]

theorem memWrite_bad (P : Params) {o : BitVec 12} {size : Nat} (v : Word) (s : State)
    (h : goodAccess o size = false) : memWrite P o size v s = .next (seterr .badAccess s) := by
  simp [memWrite, h]

/-- Everything a read can leave behind: `BAD_ACCESS`, the state with the oldest output word gone, `OUT_UNF`, or
the state as it was. -/
theorem memRead_state (P : Params) (o : BitVec 12) (size : Nat) (s : State) :
    (memRead P o size s).2 = seterr .badAccess s
      ∨ (∃ w rest, s.outFifo = w :: rest ∧ memRead P o size s = (w, { s with outFifo := rest }))
      ∨ (memRead P o size s).2 = seterr .outUnf s
      ∨ (memRead P o size s).2 = s := by
  unfold memRead popOut
  split
  · exact .inl rfl
  · split
    · split
      · exact .inr (.inr (.inl rfl))
      · exact .inr (.inl ⟨_, _, ‹_›, rfl⟩)
    · exact .inr (.inr (.inr rfl))

/-- Everything a write can do, if it answers a next state: `BAD_ACCESS`, a write of `ERR`, of the latch, a
command, an illegal command, a pushed word, or nothing. -/
theorem memWrite_cases {P : Params} {o : BitVec 12} {size : Nat} {v : Word} {s t : State}
    (h : memWrite P o size v s = .next t) :
    (goodAccess o size = false ∧ t = seterr .badAccess s)
      ∨ (goodAccess o size = true ∧ o.toNat = offErr ∧ t = { s with err := errClear s.err v })
      ∨ t = { s with cmdLo := v }
      ∨ (goodAccess o size = true ∧ o.toNat = offCmdHi
          ∧ ∃ i, decode (commandWord v s.cmdLo) = .instr i ∧ issueInstr P i s = .next t)
      ∨ t = seterr .illegalCmd s
      ∨ t = pushIn P v s
      ∨ t = s := by
  unfold memWrite at h
  by_cases hg : goodAccess o size = false
  · rw [if_pos hg] at h
    exact .inl ⟨hg, by cases h; rfl⟩
  · rw [if_neg hg] at h
    have hg' : goodAccess o size = true := by simpa using hg
    split at h
    · exact .inr (.inl ⟨hg', ‹_›, by cases h; rfl⟩)
    split at h
    · exact .inr (.inr (.inl (by cases h; rfl)))
    split at h
    · unfold issueWord at h
      split at h
      · exact .inr (.inr (.inr (.inl ⟨hg', ‹_›, _, ‹_›, h⟩)))
      · exact .inr (.inr (.inr (.inr (.inl (by cases h; rfl)))))
    split at h
    · exact .inr (.inr (.inr (.inr (.inr (.inl (by cases h; rfl))))))
    · exact .inr (.inr (.inr (.inr (.inr (.inr (by cases h; rfl))))))

/-- Everything an event can do, if it answers a next state. -/
theorem runEvent_cases {P : Params} {e : Event} {s t : State} (h : runEvent P e s = .next t) :
    (∃ o n, e = .read (.window o) n ∧ t = readAndKeep P o n s)
      ∨ (∃ o n v, e = .write (.window o) n v ∧ memWrite P o n v s = .next t)
      ∨ (e = .engine ∧ t = engineTurn P s)
      ∨ (e = .powerOn ∧ t = powerOnReset P s) := by
  unfold runEvent busAccess at h
  split at h
  · split at h
    · exact .inl ⟨_, _, rfl, by cases h; rfl⟩
    · cases h
  · split at h
    · exact .inr (.inl ⟨_, _, _, rfl, h⟩)
    · cases h
  · exact .inr (.inr (.inl ⟨rfl, by cases h; rfl⟩))
  · exact .inr (.inr (.inr ⟨rfl, by cases h; rfl⟩))

/-! ## Commands -/

theorem pushIn_cases (P : Params) (v : Word) (s : State) :
    (P.inDepth ≤ s.inFifo.length ∧ pushIn P v s = seterr .inOvf s)
      ∨ (s.inFifo.length < P.inDepth ∧ pushIn P v s = { s with inFifo := s.inFifo ++ [v] }) := by
  unfold pushIn
  by_cases h : P.inDepth ≤ s.inFifo.length
  · exact .inl ⟨h, if_pos h⟩
  · exact .inr ⟨by omega, if_neg h⟩

theorem queuesReady_iff (P : Params) (l : Nat) (s : State) :
    queuesReady P l s = true ↔ l ≤ s.inFifo.length ∧ l + s.outFifo.length ≤ P.outDepth := by
  simp [queuesReady]

theorem processCommand_cases (P : Params) (l : Word) (s : State) :
    (s.busy = true ∧ processCommand P l s = seterr .busyCmd s)
      ∨ (s.busy = false ∧ (l.toNat ≤ s.inFifo.length ∧ l.toNat + s.outFifo.length ≤ P.outDepth)
          ∧ processCommand P l s = accept P l s)
      ∨ (s.busy = false ∧ (s.inFifo.length < l.toNat ∨ P.outDepth < l.toNat + s.outFifo.length)
          ∧ processCommand P l s = seterr .procReject s) := by
  unfold processCommand u32Operand
  cases hb : s.busy
  · by_cases hq : queuesReady P l.toNat s = true
    · simp [hq, (queuesReady_iff P l.toNat s).1 hq]
    · have h := mt (queuesReady_iff P l.toNat s).2 hq
      rw [if_neg (by simp), if_neg hq]
      exact .inr (.inr ⟨rfl, by omega, rfl⟩)
  · simp

/-- The memories and the adaptive state are the only ones an accept can touch besides the configuration and the
queues; this is what it leaves. -/
theorem accept_eq (P : Params) (l : Word) (s : State) :
    accept P l s = { drainPending P s with
      jobL := l
      jobX := s.inFifo.take l.toNat
      inFifo := s.inFifo.drop l.toNat
      busy := true } := by
  have h : (drainPending P s).inFifo = s.inFifo := by
    unfold drainPending
    dsimp only
    split <;> rfl
  simp only [accept, h]

/-- Everything a drain can do. -/
theorem drainPending_cases (P : Params) (s : State) :
    (s.pend.resetPending = false
        ∧ drainPending P s = { s with cfg := drainCfg s.pend s.cfg, pend := s.pend.clear })
      ∨ (s.pend.resetPending = true
        ∧ drainPending P s = resetAdaptive P { s with cfg := drainCfg s.pend s.cfg, pend := s.pend.clear }) := by
  unfold drainPending
  cases h : s.pend.resetPending <;> simp

/-- Everything a command can do on an instance, if it answers a next state: only the pending shadow and `ERR` change,
or it is a `PROCESS`. -/
theorem issueInstr_cases {P : Params} {i : Instr} {s t : State} (h : issueInstr P i s = .next t) :
    t = s ∨ t = seterr .badValue s ∨ (∃ p, t = { s with pend := p })
      ∨ (∃ l, i = .process l ∧ t = processCommand P l s) := by
  have issue : ∀ {α : Type} (o : Option α) (put : α → Pend → Pend),
      (Host.Outcome.next (issueMessage o put s) : Result) = .next t →
        t = s ∨ t = seterr .badValue s ∨ (∃ p, t = { s with pend := p })
          ∨ (∃ l, i = .process l ∧ t = processCommand P l s) := by
    intro α o put h
    cases o with
    | none => exact .inr (.inl (by cases h; rfl))
    | some v => exact .inr (.inr (.inl ⟨_, by cases h; rfl⟩))
  cases i
  case nop p => exact .inl (by cases h; rfl)
  case reset p => exact .inr (.inr (.inl ⟨_, by cases h; rfl⟩))
  case process l => exact .inr (.inr (.inr ⟨l, rfl, by cases h; rfl⟩))
  all_goals exact issue _ _ h

/-- The same for `exec`. -/
theorem exec_cases {i : Instr} {s t : State} (h : exec i s = .next t) :
    t = s ∨ t = seterr .badValue s ∨ (∃ p, t = { s with pend := p })
      ∨ (∃ l, i = .process l ∧ t = processCommand Config.params l s) :=
  issueInstr_cases (by rw [issueInstr_reference]; exact h)

end Sys2Proof.Machine
end

