-- ==== Sys2Proof/Laws/PerInstr.lean ====
section
/-! SUPPORT. Laws stated per instruction: one lemma per constructor of `Instr`. -/

namespace Sys2Proof.Laws

namespace EncodeFields

/-- The three fields of a command's word (R81) and its opcode's row in the map (R88): no bit of the payload is
dropped, the reserved field is zero, and the opcode leads back to the command. -/
def Statement (i : Instr) : Prop :=
  opField (encode i) = opcode i ∧ rsvField (encode i) = 0 ∧ payloadField (encode i) = i.payload
    ∧ opcodeMap (opcode i).toNat i.payload = some i

/-- The number a word put together from an opcode and a payload is (R81). -/
theorem toNat_of_parts (o : BitVec 8) (p : Word) :
    (o ++ (0 : BitVec 24) ++ p).toNat = o.toNat * 2 ^ 56 + p.toNat := by
  rw [BitVec.toNat_append, BitVec.toNat_append, ← Nat.shiftLeft_add_eq_or_of_lt p.isLt]
  simp only [Nat.shiftLeft_eq, BitVec.ofNat_eq_ofNat, BitVec.toNat_ofNat, Nat.zero_mod, Nat.or_zero]
  omega

/-- The fields of a word put together from them (R81). -/
theorem fields_of_parts (o : BitVec 8) (p : Word) :
    opField (o ++ (0 : BitVec 24) ++ p) = o ∧ rsvField (o ++ (0 : BitVec 24) ++ p) = 0
      ∧ payloadField (o ++ (0 : BitVec 24) ++ p) = p := by
  have h := toNat_of_parts o p
  have ho := o.isLt
  have hp := p.isLt
  refine ⟨?_, ?_, ?_⟩ <;> apply BitVec.eq_of_toNat_eq <;>
    simp only [opField, rsvField, payloadField, BitVec.extractLsb'_toNat] <;>
    erw [h] <;> simp only [Nat.shiftRight_eq_div_pow] <;> simp <;> omega

/-- The law for a command, from its opcode's row. -/
theorem of_map {i : Instr} (h : opcodeMap (opcode i).toNat i.payload = some i) : Statement i := by
  obtain ⟨h1, h2, h3⟩ := fields_of_parts (opcode i) i.payload
  exact ⟨h1, h2, h3, h⟩

theorem nop (p : Word) : Statement (.nop p) := of_map rfl
theorem setEnabled (p : Word) : Statement (.setEnabled p) := of_map rfl
theorem setStrength (p : Word) : Statement (.setStrength p) := of_map rfl
theorem reset (p : Word) : Statement (.reset p) := of_map rfl
theorem setProfile (p : Word) : Statement (.setProfile p) := of_map rfl
theorem setNemethod (p : Word) : Statement (.setNemethod p) := of_map rfl
theorem setGainlaw (p : Word) : Statement (.setGainlaw p) := of_map rfl
theorem setSmoother (p : Word) : Statement (.setSmoother p) := of_map rfl
theorem setSshape (p : Word) : Statement (.setSshape p) := of_map rfl
theorem setBshape (p : Word) : Statement (.setBshape p) := of_map rfl
theorem setGdepth (p : Word) : Statement (.setGdepth p) := of_map rfl
theorem process (p : Word) : Statement (.process p) := of_map rfl

end EncodeFields

end Sys2Proof.Laws
end

