-- ==== Sys2Proof/Tests/Slice0.lean ====
section
/-! SUPPORT. Small tests on fixed values, taken from the spec's tables and vectors (file 95) or worked out by hand
from its rules, and for each statement with hypotheses a concrete state that meets them. -/

namespace Sys2Proof.Machine.Slice0Tests

set_option Elab.async false

/-! ## Helpers -/

/-- A value of the next state, `none` where a step stops. -/
def view {α : Type} (r : Result) (f : State → α) : Option α :=
  match r with
  | .next t => some (f t)
  | .fault _ => none
  | .refused _ => none

/-- Issue of a command after reset: the words `PENDING` and `ERR` show. -/
def pendErr (i : Instr) : Option (Word × Word) :=
  view (exec i State.reset) (fun t => (pendingWord t.pend, t.err))

/-- The state after a few commands, `none` where one stops. -/
def after (is : List Instr) (s : State) : Option State :=
  is.foldlM (fun st i => view (exec i st) id) s

/-- A state after reset with what the environment does next. -/
def withAgenda (es : List Event) : State := { State.reset with agenda := es }

/-- A block of one sample is in flight. -/
def inFlight : State := { State.reset with busy := true, jobL := 1, jobX := [0x3F000000] }

/-! ## Well-formedness (R83, R85): an ill-formed payload for each check -/

theorem test_wellFormed_bool : (Instr.setEnabled 2).wellFormed = false := by decide
theorem test_wellFormed_bool_smoother : (Instr.setSmoother 0xFFFFFFFF).wellFormed = false := by decide
theorem test_wellFormed_enum_profile : (Instr.setProfile 2).wellFormed = false := by decide
theorem test_wellFormed_enum_nemethod : (Instr.setNemethod 2).wellFormed = false := by decide
theorem test_wellFormed_enum_gainlaw : (Instr.setGainlaw 3).wellFormed = false := by decide
theorem test_wellFormed_f32_quiet_nan : (Instr.setStrength 0x7FC00000).wellFormed = false := by decide
theorem test_wellFormed_f32_signalling_nan : (Instr.setGdepth 0xFF800001).wellFormed = false := by decide
theorem test_wellFormed_legal :
    ([.nop 0xFFFFFFFF, .setEnabled 1, .setProfile 1, .setGainlaw 2, .setSshape 0x7F800000, .process 0xFFFFFFFF]
      : List Instr).all Instr.wellFormed = true := by decide

/-! ## Decode: words written out field by field from R81 and R88 (opcode, 24 reserved bits, payload) -/

theorem test_decode_nop : decode 0x00_000000_FFFFFFFF = .instr (.nop 0xFFFFFFFF) := by decide
theorem test_decode_setEnabled : decode 0x01_000000_00000001 = .instr (.setEnabled 1) := by decide
theorem test_decode_setStrength : decode 0x02_000000_40000000 = .instr (.setStrength 0x40000000) := by decide
theorem test_decode_reset : decode 0x03_000000_00000000 = .instr (.reset 0) := by decide
theorem test_decode_setProfile : decode 0x04_000000_00000001 = .instr (.setProfile 1) := by decide
theorem test_decode_setNemethod : decode 0x05_000000_00000001 = .instr (.setNemethod 1) := by decide
theorem test_decode_setGainlaw : decode 0x06_000000_00000002 = .instr (.setGainlaw 2) := by decide
theorem test_decode_setSmoother : decode 0x07_000000_00000000 = .instr (.setSmoother 0) := by decide
theorem test_decode_setSshape : decode 0x08_000000_C0000000 = .instr (.setSshape 0xC0000000) := by decide
theorem test_decode_setBshape : decode 0x09_000000_3F000000 = .instr (.setBshape 0x3F000000) := by decide
theorem test_decode_setGdepth : decode 0x0A_000000_3F800000 = .instr (.setGdepth 0x3F800000) := by decide
theorem test_decode_process : decode 0x10_000000_00000080 = .instr (.process 128) := by decide

/-- V-ENC-14 to V-ENC-17: the ends of the two reserved opcode ranges. -/
theorem test_decode_reserved_opcodes :
    ([0x0B_000000_00000000, 0x0F_000000_00000000, 0x11_000000_00000000, 0xFF_000000_00000000] : List CmdWord).map
        decode
      = [.illegal (.reservedOpcode 0x0B), .illegal (.reservedOpcode 0x0F), .illegal (.reservedOpcode 0x11),
         .illegal (.reservedOpcode 0xFF)] := by decide

/-- V-ENC-18, V-ENC-19: the lowest and the highest reserved bit. -/
theorem test_decode_reserved_bits :
    ([0x10_000001_00000080, 0x00_800000_00000000] : List CmdWord).map decode
      = [.illegal (.reservedBits 0x000001), .illegal (.reservedBits 0x800000)] := by decide

theorem test_decodeTableWord_process : decodeTableWord 64 0x1000000000000080 = some (.process 128) := by decide
theorem test_decodeTableWord_reserved : decodeTableWord 64 0x1000000100000080 = none := by decide

/-- The first step after reset runs the command that `withFetchWord` places. -/
theorem test_withFetchWord :
    step (State.reset.withFetchWord 64 0x1000000000000080)
      = exec (.process 0x80) { State.reset with cmdLo := 0x80 } := by rfl

/-! ## Commands (file 95, 2.2): the words of `PENDING` and `ERR`, and the value pending -/

theorem test_nop : pendErr (.nop 0xFFFFFFFF) = some (0, 0) := by decide +kernel
theorem test_setEnabled : pendErr (.setEnabled 1) = some (0x00000002, 0) := by decide +kernel
theorem test_setEnabled_bad : pendErr (.setEnabled 0xFFFFFFFF) = some (0, 0x00000002) := by decide +kernel
/-- V-CMD-5: 3.5 is stored as 2.0. -/
theorem test_setStrength_clamps :
    view (exec (.setStrength 0x40600000) State.reset) (fun t => (t.pend.strength, pendingWord t.pend))
      = some (⟨0x40000000, true⟩, 0x00000004) := by decide +kernel
/-- V-CMD-9: −0.0 is stored as it is. -/
theorem test_setStrength_negative_zero :
    view (exec (.setStrength 0x80000000) State.reset) (fun t => t.pend.strength)
      = some ⟨0x80000000, true⟩ := by decide +kernel
theorem test_reset : pendErr (.reset 0) = some (0x00000008, 0) := by decide +kernel
theorem test_setProfile : pendErr (.setProfile 1) = some (0x00000010, 0) := by decide +kernel
theorem test_setProfile_bad : pendErr (.setProfile 2) = some (0, 0x00000002) := by decide +kernel
theorem test_setNemethod : pendErr (.setNemethod 1) = some (0x00000020, 0) := by decide +kernel
theorem test_setNemethod_bad : pendErr (.setNemethod 2) = some (0, 0x00000002) := by decide +kernel
theorem test_setGainlaw : pendErr (.setGainlaw 0) = some (0x00000040, 0) := by decide +kernel
theorem test_setGainlaw_bad : pendErr (.setGainlaw 3) = some (0, 0x00000002) := by decide +kernel
theorem test_setSmoother : pendErr (.setSmoother 0) = some (0x00000080, 0) := by decide +kernel
/-- V-CMD-21: −infinity is stored as −2.0. -/
theorem test_setSshape_clamps :
    view (exec (.setSshape 0xFF800000) State.reset) (fun t => (t.pend.sshape, pendingWord t.pend))
      = some (⟨0xC0000000, true⟩, 0x00000100) := by decide +kernel
/-- V-CMD-22: 1.5 is stored as 1.0. -/
theorem test_setBshape_clamps :
    view (exec (.setBshape 0x3FC00000) State.reset) (fun t => (t.pend.bshape, pendingWord t.pend))
      = some (⟨0x3F800000, true⟩, 0x00000200) := by decide +kernel
theorem test_setGdepth : pendErr (.setGdepth 0x3F800000) = some (0x00000400, 0) := by decide +kernel
/-- V-CMD-25. -/
theorem test_setGdepth_nan : pendErr (.setGdepth 0x7FC00000) = some (0, 0x00000002) := by decide +kernel

/-- V-CMD-29: last writer wins, and the reset sees the new profile. -/
theorem test_batch :
    (after [.setGainlaw 0, .setGainlaw 2, .reset 0, .setProfile 1, .process 0] State.reset).map
        (fun t => (t.cfg.gainLaw, t.cfg.profile, t.hold, pendingWord t.pend))
      = some (.power, .clarity, 4800, 0) := by decide +kernel

/-- V-CMD-32: a rejected PROCESS drains nothing. -/
theorem test_process_rejected_keeps_pending :
    (after [.setEnabled 1, .process 5] State.reset).map
        (fun t => (pendingWord t.pend, activeCfgWord t.cfg, t.err, t.busy))
      = some (0x00000002, 0x00000030, 0x00000004, false) := by decide +kernel

/-- V-PROC-1: the accept takes the oldest words. -/
theorem test_process_accept :
    view (exec (.process 2) { State.reset with inFifo := [1, 2, 3] }) (fun t => (t.jobL, t.jobX, t.inFifo, t.busy))
      = some (2, [1, 2], [3], true) := by decide +kernel

/-! ## Host accesses (file 49) -/

/-- V-ENC-20 as bus accesses: the latch, then the issue. -/
theorem test_issue_from_latch :
    view (runSteps 2 (withAgenda [wr32 0x010 0x00000002, wr32 0x014 0x01000000])) (fun t => (t.cmdLo, t.err))
      = some (0x00000002, 0x00000002) := by decide +kernel
/-- R262's example. -/
theorem test_err_write_clears :
    view (memWrite Config.params 0x00C 4 0x00000002 { State.reset with err := 0x00000042 }) (fun t => t.err)
      = some 0x00000040 := by decide +kernel
theorem test_pop_empty :
    (memRead Config.params 0x01C 4 State.reset).1 = 0 ∧ (memRead Config.params 0x01C 4 State.reset).2.err = 0x20 := by
  decide +kernel
theorem test_bad_access_width :
    (memRead Config.params 0x01C 2 { State.reset with outFifo := [7] }).2.outFifo = [7] := by decide +kernel
/-- R47: the reference `GEOMETRY`. -/
theorem test_geometry : geometryWord Config.params = 0x0C080709 := by decide +kernel

/-! ## Assembler (R91, R92) -/

theorem test_assemble_comment :
    assemble "SET.STRENGTH 2.0 ; full" = some (.accesses [wr32 0x010 0x40000000, wr32 0x014 0x02000000]) := by
  decide +kernel
theorem test_assemble_raw : assemble "CMD 0x08000000_C0000000" = assemble "SET.SSHAPE -2.0" := by decide +kernel
theorem test_assemble_pseudo :
    [assemble "GATE.OFF", assemble "CLEARERR", assemble "PUSH 0.6875", assemble "POP", assemble "WAIT"]
      = [some (.accesses (commandEvents (.setGdepth 0))), some (.accesses [wr32 0x00C 0xFFFFFFFF]),
         some (.accesses [wr32 0x018 0x3F300000]), some (.accesses [rd32 0x01C]), some .wait] := by decide +kernel
theorem test_assemble_illegal : [assemble "FOO 1", assemble "SET.ENABLED 2"] = [none, none] := by decide +kernel

/-! ## Arithmetic (R10) -/

/-- 0.1 + 0.2 rounds to 0.30000000000000004. -/
theorem test_add_rounds : F64.add (F64.lit 1 1) (F64.lit 2 1) = F64.lit 30000000000000004 17 := by decide +kernel
theorem test_sqrt_two : F64.sqrt F64.two = F64.lit 14142135623730951 16 := by decide +kernel
/-- Ties to even: 1 + 2^−24 rounds down to 1.0 in binary32. -/
theorem test_r32_tie : r32 (F64.add F64.one (F64.div F64.one (F64.ofNat (2 ^ 24)))) = 0x3F800000 := by decide +kernel
theorem test_r32_overflow : r32 (F64.lit (4 * 10 ^ 38) 0) = 0x7F800000 := by decide +kernel

/-! ## The pipeline at the test configuration TC8 (file 95, section 0) -/

/-- The values of `cos` and `sin` at the eight angles of TC8, as binary64 prints them. -/
def cosTable : List F64 :=
  [F64.one, F64.lit 7071067811865476 16, F64.lit 6123233995736766 32, F64.neg (F64.lit 7071067811865475 16),
   F64.neg F64.one, F64.neg (F64.lit 7071067811865477 16), F64.neg (F64.lit 18369701987210297 32),
   F64.lit 7071067811865474 16]

def sinTable : List F64 :=
  [F64.zero, F64.lit 7071067811865475 16, F64.one, F64.lit 7071067811865476 16]

/-- Element of a table at the angle `i / 8` of the circle it is asked for. -/
def atAngle (t : List F64) (x : F64) : F64 :=
  ((List.range 8).foldl (fun acc i =>
    if x = F64.div (F64.mul (F64.mul F64.two F64.pi) (F64.ofNat i)) (F64.ofNat 8) then elem t i else acc) F64.nan)

/-- TC8 with tables for `cos` and `sin`, and `pow` at the +1.2 dB level (V-EQ-1). -/
def tc8 : Params :=
  { Config.params with
    n := 8, h := 2, vadLo := 1, vadHi := 4, d := 2, v := 2
    eqBands := fun p =>
      match p with
      | .plain => [⟨2, 2, F64.lit 12 1⟩]
      | .clarity => []
    arith :=
      { cos := fun x => Config.finiteOn (onCircle x) (atAngle cosTable x)
        sin := fun x => Config.finiteOn (onCircle x) (atAngle sinTable x)
        ln := fun x => Config.finiteOn (lnDomain x) x
        pow := fun b x => Config.finiteOn (powDomain b x) (F64.lit 11481536214968828 16)
        cos_finite := fun _ h => Config.finiteOn_isFinite h _
        sin_finite := fun _ h => Config.finiteOn_isFinite h _
        ln_finite := fun _ h => Config.finiteOn_isFinite h _
        pow_finite := fun _ _ h => Config.finiteOn_isFinite h _ } }

/-- The window of section 0. -/
theorem test_window :
    (List.range 4).map (win tc8)
      = [F64.zero, F64.lit 1464466094067262 16, F64.lit 49999999999999994 17, F64.lit 8535533905932737 16] := by
  decide +kernel

/-- V-FFT-5: the forward transform of 0, 1, …, 7. -/
theorem test_fft_ramp :
    (fft tc8 false ⟨(List.range 8).map F64.ofNat, List.replicate 8 F64.zero⟩).re
      = [F64.ofNat 28, F64.neg (F64.ofNat 4), F64.neg (F64.ofNat 4), F64.neg (F64.ofNat 4), F64.neg (F64.ofNat 4),
         F64.neg (F64.lit 39999999999999996 16), F64.neg (F64.lit 39999999999999996 16),
         F64.neg (F64.lit 39999999999999987 16)] := by decide +kernel

/-- V-EQ-3: gain, factor and mirror, each with its own rounding. -/
theorem test_equalizer_and_mirror :
    (fun y : Spectrum => (elem y.re 6, elem y.im 6))
        (rebuildHermitian tc8 (applyGainAndEq tc8 .plain [F64.one, F64.one, F64.lit 5 1, F64.one, F64.one]
          ⟨[F64.zero, F64.zero, F64.lit 2 1, F64.zero, F64.zero, F64.zero, F64.zero, F64.zero],
           [F64.zero, F64.zero, F64.neg (F64.lit 1 1), F64.zero, F64.zero, F64.zero, F64.zero, F64.zero]⟩))
      = (F64.lit 1148153621496883 16, F64.lit 5740768107484415 17) := by decide +kernel

/-- V-EQ-2: the reference bands in bins. -/
theorem test_reference_bands :
    (Config.eqBands .plain).map (fun b => (b.lo, b.hi)) = [(0, 1), (9, 21), (107, 149)] := by decide +kernel

/-- V-VAD-5 and V-VAD-6. -/
theorem test_raw_score :
    rawScore Config.params F64.one (F64.lit 12987012987012988 18) = F64.lit 1709408653456312 16 := by decide +kernel
theorem test_smooth_score : smoothScore (F64.lit 1 1) (F64.lit 5 1) = F64.lit 38 2 := by decide +kernel

/-- V-NE-2, first frame. -/
theorem test_legacy_frame :
    (fun t : State => (elem t.mem.sig 0, elem t.mem.lmin 0, elem t.mem.noise 0, t.frameCnt))
        (noiseUpdate tc8 (List.replicate 5 F64.one) (State.por tc8))
      = (F64.lit 20000000098000018 18, F64.lit 2000099999800002 21, F64.lit 20100499998000038 24, 1) := by
  decide +kernel

/-- V-NE-5, second frame: the subwindow ends and the next one is seeded. -/
theorem test_advanced_frame :
    (fun t : State => (elem t.mem.sig 0, subminAt t.mem.submin 0 0, subminAt t.mem.submin 1 0, t.subPtr, t.subCnt))
        (noiseUpdate tc8 (List.replicate 5 F64.zero)
          (noiseUpdate tc8 (List.replicate 5 F64.one)
            { State.por tc8 with cfg := { Cfg.por with neMethod := .advanced } }))
      = (F64.lit 9397500008010248 17, F64.lit 1 10, F64.lit 9397500008010248 17, 1, 0) := by decide +kernel

/-- V-GAIN-2, the linear law and the power law at strength 2.0. -/
theorem test_gain_laws :
    (lawGain tc8 { Cfg.por with strength := 0x40000000, gainLaw := .linear } (F64.lit 19999999998 11),
     lawGain tc8 { Cfg.por with strength := 0x40000000 } (F64.lit 19999999998 11))
      = (F64.lit 5527864045224027 16, F64.lit 8944271910110962 16) := by decide +kernel
/-- V-GAIN-4. -/
theorem test_smoothed_gain :
    smoothedGain { Cfg.por with strength := 0x40000000 } F64.one (F64.lit 8944271910110962 16)
      = F64.lit 9788854382022193 16 := by decide +kernel

/-- V-SM-1, first frame: kernel, clamp and running gain. -/
theorem test_smoother_frame :
    smoothGains tc8 [F64.one, F64.lit 2 1, F64.one, F64.lit 2 1, F64.one] (State.por tc8)
      = [F64.one, F64.lit 85 2, F64.lit 85 2, F64.lit 85 2, F64.one] := by decide +kernel

/-- V-GATE-1: HOLD over blocks of 4096, and the close at the third. -/
theorem test_gate_closes :
    (fun t : State => (t.hold, t.gateOpen))
        (gateBlockUpdate tc8 4096 { State.por tc8 with hold := 1408, sflat := F64.lit 5 1 })
      = (0, false) := by decide +kernel
/-- V-GATE-4. -/
theorem test_gate_multiplier :
    gateMultNext tc8 { Cfg.por with gdepth := 0x3F800000 } false F64.one = F64.lit 99985 5 := by decide +kernel
/-- V-OUT-6 and V-OUT-9. -/
theorem test_limiter : r32 (limiter (F64.neg F64.two)) = 0xBF9D70A4 := by decide +kernel
theorem test_output_stage :
    outputStage tc8
        { State.por tc8 with cfg := { Cfg.por with strength := 0x40000000 }, gateMult := F64.lit 99985 5 } (F64.lit 5 1)
      = 0x3F3FF8A1 := by decide +kernel
/-- V-TEL-1, at the fourth enabled block. -/
theorem test_telemetry :
    (fun t : State => (t.telemGr, t.telemFlat, t.telemSeq, t.telemPhase))
        (telemetryUpdate tc8 { State.por tc8 with
          cfg := { Cfg.por with enabled := true }, gateMult := F64.lit 99985 5, sflat := F64.lit 2 2, telemPhase := 3 })
      = (0x391D4952, 0x3CA3D70A, 1, 0) := by decide +kernel

/-- V-SEQ-1 and V-SEQ-4 in small: after a block of two samples while disabled. -/
theorem test_block_while_disabled :
    (fun t : State => (t.outFifo, t.idx, t.warm, t.hopPhase, t.busy, t.jobX))
        (engineBlock tc8 { State.por tc8 with busy := true, jobL := 2, jobX := [0x3F000000, 0x7FC00001] })
      = ([0, 0], 2, 2, 0, false, []) := by decide +kernel

/-- R7: a fractional sample rate and another frame length place the bands; a rate of 0 is refused. -/
theorem test_instantiate :
    (Config.bandsAt 8 ((25 : Rat) / 2) .clarity).map EqBand.lo = [192]
      ∧ instantiate { tc8 with fs := (25 : Rat) / 2, base := 0x1000 } ≠ .refused .invalidParameters
      ∧ instantiate { tc8 with fs := 0 } = .refused .invalidParameters := by
  refine ⟨by decide +kernel, ?_, dif_neg (by decide +kernel)⟩
  intro h
  rw [instantiate, dif_pos (by decide +kernel)] at h
  cases h

/-- R7: another instance rejects by its own `OUT_DEPTH`, through the bus. -/
theorem test_process_depth_of_instance :
    let s := { State.por tc8 with inFifo := [7], outFifo := [0] }
    (view (memWrite { tc8 with outDepth := 1 } 0x014 4 0x10000000 { s with cmdLo := 1 }) State.err,
      view (memWrite { tc8 with outDepth := 2 } 0x014 4 0x10000000 { s with cmdLo := 1 }) State.busy)
      = (some 0x4, some true) := by decide +kernel

/-! ## Witnesses: states and operands that meet the hypotheses of the statements, each clause at a boundary -/

theorem witness_BoolCommandsPendOrReject :
    (0 : Word).toNat ≤ 1 ∧ (1 : Word).toNat ≤ 1 ∧ 1 < (2 : Word).toNat ∧ 1 < (0xFFFFFFFF : Word).toNat := by decide

theorem witness_EnumCommandsPendOrReject :
    (1 : Word).toNat ≤ 1 ∧ 1 < (2 : Word).toNat ∧ (2 : Word).toNat ≤ 2 ∧ 2 < (3 : Word).toNat := by decide

theorem witness_SetStrengthStoresTheClampedWord :
    isNaN32 0x7F800001 = true ∧ F64.within (f64 0x40000000) F64.zero F64.two = true
      ∧ F64.within (f64 0x80000000) F64.zero F64.two = true ∧ F64.lt F64.two (f64 0x40000001) = true
      ∧ F64.lt (f64 0x80000001) F64.zero = true := by decide +kernel

theorem witness_SetSshapeStoresTheClampedWord :
    isNaN32 0xFFC00000 = true ∧ F64.within (f64 0xC0000000) (F64.neg F64.two) F64.two = true
      ∧ F64.lt F64.two (f64 0x7F800000) = true ∧ F64.lt (f64 0xC0000001) (F64.neg F64.two) = true := by
  decide +kernel

theorem witness_SetBshapeStoresTheClampedWord :
    isNaN32 0x7FC00000 = true ∧ F64.within (f64 0x3F800000) F64.zero F64.one = true
      ∧ F64.lt F64.one (f64 0x3F800001) = true ∧ F64.lt (f64 0xFF800000) F64.zero = true := by decide +kernel

theorem witness_SetGdepthStoresTheClampedWord :
    isNaN32 0x7FFFFFFF = true ∧ F64.within (f64 0x00000000) F64.zero F64.one = true
      ∧ F64.lt F64.one (f64 0x40000000) = true ∧ F64.lt (f64 0xBF800000) F64.zero = true := by decide +kernel

theorem witness_InvalidMessageOnlySetsBadValue :
    (Instr.setGainlaw 3).wellFormed = false ∧ (Instr.setBshape 0x7F800001).wellFormed = false := by decide

/-- A shadow that kept its values after a drain, and batches: none, with an invalid message, with a reset between two
values of one field. -/
theorem witness_BatchAppliesLastWriterThenReset :
    let s := { State.reset with
      outFifo := List.replicate 4096 0, pend := { Pend.por with strength := ⟨0x40000000, false⟩ } }
    s.busy = false ∧ s.outFifo.length ≤ 4096 ∧ s.pend.isEmpty = true ∧ s.pend ≠ Pend.por
      ∧ ([] : List Instr).all isConfiguration = true ∧ [Instr.setEnabled 2].all isConfiguration = true
      ∧ [Instr.setProfile 1, .reset 0, .setProfile 0].all isConfiguration = true := by decide +kernel

/-- The largest block: both queues at the bound. -/
theorem witness_ProcessAcceptDrainsAndTakesSamples :
    let s := { State.reset with inFifo := List.replicate 4096 0 }
    s.busy = false ∧ (4096 : Word).toNat ≤ s.inFifo.length ∧ (4096 : Word).toNat + s.outFifo.length ≤ 4096
      ∧ s.pend.resetPending = false := by decide +kernel

theorem witness_ProcessAcceptAppliesPendingReset :
    let s := { State.reset with
      inFifo := [1], outFifo := List.replicate 4095 0, pend := { Pend.por with resetPending := true } }
    s.busy = false ∧ (1 : Word).toNat ≤ s.inFifo.length ∧ (1 : Word).toNat + s.outFifo.length ≤ 4096
      ∧ s.pend.resetPending = true := by decide +kernel

/-- The clauses on other parameters: idle with the room used up to the depth, and past it. -/
theorem witness_ProcessTurnedAwayOnlySetsItsError_parameters :
    let s := { State.por tc8 with inFifo := [7], outFifo := List.replicate 15 0 }
    let P := { tc8 with outDepth := 16 }
    s.busy = false ∧ (1 : Word).toNat ≤ s.inFifo.length ∧ (1 : Word).toNat + s.outFifo.length ≤ P.outDepth
      ∧ P.outDepth < (1 : Word).toNat + ({ s with outFifo := List.replicate 16 0 } : State).outFifo.length := by
  decide +kernel

/-- Busy; idle with one word too few; idle with one place too few. -/
theorem witness_ProcessTurnedAwayOnlySetsItsError :
    inFlight.busy = true ∧ (State.reset.busy = false ∧ State.reset.inFifo.length < (1 : Word).toNat)
      ∧ 4096 < (1 : Word).toNat + ({ State.reset with outFifo := List.replicate 4096 0 } : State).outFifo.length := by
  decide +kernel

theorem witness_ProcessZeroTouchesNoSample :
    State.reset.busy = false ∧ State.reset.outFifo.length ≤ 4096 ∧ State.reset.pend.resetPending = false := by
  decide +kernel

/-- Score below the threshold, and score at it. -/
theorem witness_ProcessZeroTouchesNoSample_score :
    F64.lt F64.zero (threshold Config.params Cfg.por) = true
      ∧ F64.lt (threshold Config.params Cfg.por) (threshold Config.params Cfg.por) = false := by decide +kernel

theorem witness_EncodeOfDecodedWordIsTheWord :
    decode 0x10_000000_FFFFFFFF = .instr (.process 0xFFFFFFFF) := by decide

theorem witness_IllegalCommandOnlySetsIllegalCmd :
    (0x00000001 : Word).toNat % 2 ^ 24 ≠ 0
      ∧ (0x0B ≤ (0x0B000000 : Word).toNat / 2 ^ 24 ∧ (0x0F000000 : Word).toNat / 2 ^ 24 ≤ 0x0F)
      ∧ (0x11 ≤ (0x11000000 : Word).toNat / 2 ^ 24 ∧ (0xFF000000 : Word).toNat / 2 ^ 24 ≤ 0xFF) := by decide

theorem witness_CommandAccessesIssueTheCommand :
    (withAgenda (commandEvents (.process 0) ++ [.engine])).agenda = commandEvents (.process 0) ++ [.engine] := rfl

theorem witness_StepRunsTheDecodedCommand :
    (withAgenda [.write (.window 0x014) 4 0x01000000]).agenda = .write (.window 0x014) 4 0x01000000 :: []
      ∧ decode (commandWord 0x01000000 State.reset.cmdLo) = .instr (.setEnabled 0) := ⟨rfl, by decide⟩

theorem witness_BadAccessOnlySetsBadAccess :
    ((2 : Nat) ≠ 4 ∨ (0x000 : BitVec 12).toNat % 4 ≠ 0) ∧ ((4 : Nat) ≠ 4 ∨ (0x019 : BitVec 12).toNat % 4 ≠ 0) := by
  decide

theorem witness_ReservedOffsetsReadZeroIgnoreWrites :
    (0x04C ≤ (0x04C : BitVec 12).toNat ∧ (0x04C : BitVec 12).toNat % 4 = 0)
      ∧ (0x04C ≤ (0xFFC : BitVec 12).toNat ∧ (0xFFC : BitVec 12).toNat % 4 = 0) := by decide

theorem witness_PlainAccessesChangeNothing :
    (0x008 : BitVec 12).toNat % 4 = 0 ∧ (0x008 : BitVec 12).toNat ≠ 0x01C ∧ (0x008 : BitVec 12).toNat ≠ 0x00C
      ∧ (0x008 : BitVec 12).toNat ≠ 0x010 ∧ (0x008 : BitVec 12).toNat ≠ 0x014
      ∧ (0x008 : BitVec 12).toNat ≠ 0x018 := by decide

theorem witness_PushAppendsOrOverflows :
    ({ State.reset with inFifo := List.replicate 4095 0 } : State).inFifo.length < Config.params.inDepth
      ∧ ({ State.reset with inFifo := List.replicate 4096 0 } : State).inFifo.length = Config.params.inDepth := by
  decide +kernel

theorem witness_PopTakesTheOldestOrUnderflows :
    ({ State.reset with outFifo := [7] } : State).outFifo = 7 :: [] ∧ State.reset.outFifo = [] := ⟨rfl, rfl⟩

/-- The first address past the window, read and written; the last offset of the window. -/
theorem witness_AccessesOutsideTheWindowAreRefused :
    (Config.base < Config.base ∨ Config.base + 0x1000 ≤ Config.base + 0x1000)
      ∧ (withAgenda [readAt Config.params (Config.base + 0x1000) 4]).agenda
          = readAt Config.params (Config.base + 0x1000) 4 :: []
      ∧ (withAgenda [writeAt Config.params (Config.base + 0x1000) 4 1]).agenda
          = writeAt Config.params (Config.base + 0x1000) 4 1 :: []
      ∧ 0xFFF < 0x1000 := ⟨.inr (le_refl _), rfl, rfl, by decide⟩

theorem witness_InWindowStepsAlwaysGoOn :
    (withAgenda [rd32 0xFFC, wr32 0x014 0xFFFFFFFF, .powerOn, .engine]).inWindow = true := by decide +kernel

theorem witness_EngineTurnCompletesTheBlock : inFlight.busy = true ∧ inFlight.agenda = [] := ⟨rfl, rfl⟩

/-- Samples before and at the delay. -/
theorem witness_BypassDelaysByExactlyN :
    0 < Config.params.n ∧ State.reset.mem.inRing.length = 2 * Config.params.n ∧ State.reset.cfg.enabled = false
      ∧ 511 < (List.replicate 513 (1 : Word)).length ∧ 511 < Config.params.n
      ∧ 512 < (List.replicate 513 (1 : Word)).length ∧ Config.params.n ≤ 512 := by decide +kernel

theorem witness_ColdStartPassesInputThrough :
    let s := { State.reset with cfg := { Cfg.por with enabled := true }, warm := 511 }
    s.warm ≤ Config.params.n ∧ s.cfg.enabled = true ∧ 0 < [(1 : Word)].length ∧ s.warm + 0 < Config.params.n := by
  decide +kernel

theorem witness_ProcessedOutputIsFiniteOrBypass :
    let s := { State.reset with cfg := { Cfg.por with enabled := true }, warm := 512 }
    s.cfg.enabled = true ∧ Config.params.n ≤ s.warm := by decide +kernel

theorem witness_SequencerFollowsTheSampleCounter :
    0 < Config.params.n ∧ 0 < Config.params.h
      ∧ State.Counts Config.params { State.reset with idx := 512, warm := 512 } 512 :=
  ⟨by decide +kernel, by decide +kernel, ⟨by decide +kernel, by decide +kernel, by decide +kernel⟩⟩

/-- The two clauses: a cell of the frame, the cells outside it. -/
theorem witness_OutputRingIsAccumulatedAndDrained :
    0 < Config.params.n ∧ State.reset.mem.outRing.length = 2 * Config.params.n ∧ 511 < Config.params.n
      ∧ (∀ i < Config.params.n, 512 % (2 * Config.params.n) ≠ (0 + i) % (2 * Config.params.n))
      ∧ Memory.wf Config.params State.reset.mem :=
  ⟨by decide +kernel, by decide +kernel, by decide +kernel,
    fun i hi => (by rw [show Config.params.n = 512 from rfl] at *; omega), Memory.por_wf _⟩

theorem witness_CallbackReturnsAnEqualLengthBlock :
    let xs : List Word := [0x3F000000]
    let s := withAgenda (xs.map (wr32 offInData) ++ commandEvents (.process (BitVec.ofNat 32 xs.length))
      ++ List.replicate 1 (rd32 offStatus) ++ [.engine, rd32 offStatus] ++ List.replicate xs.length (rd32 offOutData))
    xs.length ≤ 4096 ∧ s.busy = false ∧ s.inFifo = [] ∧ s.outFifo = []
      ∧ s.agenda = xs.map (wr32 offInData) ++ commandEvents (.process (BitVec.ofNat 32 xs.length))
          ++ List.replicate 1 (rd32 offStatus) ++ [.engine, rd32 offStatus]
          ++ List.replicate xs.length (rd32 offOutData) :=
  ⟨by decide, rfl, rfl, rfl, rfl⟩

theorem witness_WaitEnds :
    ({ inFlight with agenda := List.replicate 3 (rd32 offStatus) } : State).busy = true
      ∧ ({ inFlight with agenda := List.replicate 3 (rd32 offStatus) } : State).agenda
          = List.replicate 3 (rd32 offStatus) := ⟨rfl, rfl⟩

theorem witness_HostAccessesWhileBusyLeaveTheBlock :
    (wr32 0x018 7).isHost = true ∧ ({ inFlight with agenda := [wr32 0x018 7] } : State).busy = true
      ∧ step { inFlight with agenda := [wr32 0x018 7] } = .next { inFlight with agenda := [], inFifo := [7] } :=
  ⟨rfl, rfl, rfl⟩

/-- A finite word, a NaN and the bit clear. -/
theorem witness_NonfiniteSamplesEnterAsZero :
    0 < Config.params.n ∧ (f64 (inRead Config.params State.reset (0 + 0))).isFinite = true
      ∧ (f64 (inRead Config.params { State.reset with mem := { State.reset.mem with inRing := [0x7FC00000] } }
          (0 + 0))).isFinite = false
      ∧ State.reset.err.getLsbD 6 = false := by decide +kernel

theorem witness_MirroredBinsGetTheSameGain :
    tc8.n = 2 * 4 ∧ 0 < 4 ∧ (List.replicate 8 F64.one).length = tc8.n ∧ 4 ≤ 4 ∧ 1 ≤ 3 ∧ 3 < 4 := by decide

/-- Bins beside a band. -/
theorem witness_EqualizerBandsAndNeutralBins :
    (∀ b ∈ tc8.eqBands .plain, 1 < b.lo ∨ b.hi < 1) ∧ (∀ b ∈ tc8.eqBands .plain, 3 < b.lo ∨ b.hi < 3) := by decide

theorem witness_LegacyMinimumOfABin :
    State.reset.cfg.neMethod = .legacy ∧ 256 < Config.params.nb := by decide +kernel

/-- A frame inside a subwindow, and the frame that ends it. -/
theorem witness_SubwindowMinimaOfAFrame :
    let s := { State.reset with cfg := { Cfg.por with neMethod := .advanced }, subPtr := 7, subCnt := 11 }
    s.cfg.neMethod = .advanced ∧ 256 < Config.params.nb ∧ s.subPtr < Config.params.d
      ∧ s.mem.submin.length = Config.params.d ∧ s.subCnt + 1 = Config.params.v
      ∧ s.subPtr ≠ (s.subPtr + 1) % Config.params.d ∧ 1 ≠ s.subPtr ∧ 1 ≠ (s.subPtr + 1) % Config.params.d
      ∧ ({ s with subCnt := 10 } : State).subCnt + 1 ≠ Config.params.v := by decide +kernel

theorem witness_MinimumOfMinimaIsTheLeast :
    (0 < tc8.d ∧ ∀ d < tc8.d, (subminAt [[F64.two], [F64.one]] d 0).isNaN = false)
      ∧ ({ State.reset with cfg := { Cfg.por with neMethod := .advanced } } : State).cfg.neMethod = .advanced
      ∧ 256 < Config.params.nb := by decide +kernel

theorem witness_UnselectedStateIsFrozen :
    State.reset.cfg.neMethod = .legacy
      ∧ ({ State.reset with cfg := { Cfg.por with neMethod := .advanced, smoother := false } } : State).cfg.neMethod
          = .advanced
      ∧ ({ State.reset with cfg := { Cfg.por with neMethod := .advanced, smoother := false } } : State).cfg.smoother
          = false := by decide +kernel

theorem witness_GainsStayInTheirRange :
    (F64.add (F64.mul (smoothWeight Cfg.por) F64.one)
        (F64.mul (F64.sub F64.one (smoothWeight Cfg.por)) F64.one)).isNaN = false
      ∧ F64.ge F64.one (gainFloor Cfg.por) = true
      ∧ ({ Cfg.por with strength := 0x80000000 } : Cfg).strength = 0x80000000 ∧ F64.one.isFinite = true := by
  decide +kernel

theorem witness_GateTransitionOfABlock :
    F64.lt State.reset.sflat
        (F64.sub Config.params.baseThr (F64.mul Config.params.thrK (effect State.reset.cfg))) = true
      ∧ F64.lt (F64.sub Config.params.baseThr (F64.mul Config.params.thrK (effect Cfg.por)))
        (F64.sub Config.params.baseThr (F64.mul Config.params.thrK (effect Cfg.por))) = false := by decide +kernel

theorem witness_GateStaysAtOneWithDepthZero :
    let s := { inFlight with cfg := { Cfg.por with gdepth := 0x80000000 }, gateOpen := false }
    s.busy = true ∧ s.agenda = [] ∧ s.cfg.gdepth = 0x80000000 ∧ s.gateMult = F64.one := by decide +kernel

/-- The bound itself, and the next value above it in magnitude. -/
theorem witness_LimiterPassesSmallValuesAndIsOdd :
    (F64.neg (F64.lit 9 1)).isNaN = false ∧ F64.ge (F64.lit 9 1) (F64.neg (F64.lit 9 1)).abs = true
      ∧ (F64.neg (F64.lit 90000000000000013 17)).isNaN = false
      ∧ F64.lt (F64.lit 9 1) (F64.neg (F64.lit 90000000000000013 17)).abs = true := by
  decide +kernel

/-- Parameters that violate a constraint, and parameters that meet all of them. -/
theorem witness_ResetMeetsTheInvariants :
    ({ tc8 with n := 7 } : Params).valid = false ∧ ({ tc8 with fs := 0 } : Params).valid = false
      ∧ ({ tc8 with base := 0x1000 } : Params).valid = true := by decide +kernel

/-- Disabled; enabled with the period's last phase before, and with another. -/
theorem witness_TelemetryOfABlock :
    State.reset.cfg.enabled = false
      ∧ ({ State.reset with cfg := { Cfg.por with enabled := true } } : State).cfg.enabled = true
      ∧ (3 + 1) % Config.params.telemPeriod = 0 ∧ (0 + 1) % Config.params.telemPeriod ≠ 0 := by decide +kernel

theorem witness_TelemetryNeverFeedsBack :
    State.reset.forgetTelemetry = ({ State.reset with telemSeq := 9 } : State).forgetTelemetry
      ∧ (∀ e rest, State.reset.agenda = e :: rest → e.readsTelemetry = false)
      ∧ step State.reset = .next State.reset := by
  refine ⟨rfl, fun e rest h => ?_, rfl⟩
  cases h

theorem witness_ErrBitsAreSticky :
    let s := { withAgenda [rd32 0x00C] with err := 0x1 }
    step s = .next { s with agenda := [], busData := 0x1 } ∧ s.err.getLsbD 0 = true
      ∧ ∀ e rest, s.agenda = e :: rest → e ≠ .powerOn ∧ e.writesErr = false := by
  refine ⟨by rfl, rfl, fun e rest h => ?_⟩
  cases h
  exact ⟨by decide, rfl⟩

/-- A step that keeps the configuration and one that does not. -/
theorem witness_OnlyAcceptAndPowerOnWriteConfiguration :
    step State.reset = .next State.reset
      ∧ step { withAgenda [.powerOn] with cfg := { Cfg.por with enabled := true } } = .next State.reset :=
  ⟨rfl, rfl⟩

theorem witness_PowerOnResetsEverythingAndAloneRestarts :
    (withAgenda [.powerOn]).agenda = .powerOn :: []
      ∧ step (withAgenda [rd32 0x000]) = .next { State.reset with busData := 0x4E520001 }
      ∧ (∀ rest, (withAgenda [rd32 0x000]).agenda ≠ .powerOn :: rest) ∧ (rd32 0x000).isHost = true := by
  refine ⟨rfl, by rfl, fun rest h => ?_, rfl⟩
  cases h

/-- A state inside all bounds, away from reset, with a block in flight, and the step it takes. -/
theorem witness_StepKeepsTheBounds :
    let s := { inFlight with idx := 3, warm := 3, err := 0x1FF, telemPhase := 3, frameCnt := 499, subPtr := 7,
                             subCnt := 11, agenda := [.powerOn] }
    State.Wf Config.params s ∧ step s = .next State.reset := by
  refine ⟨⟨Memory.por_wf _, ?_, ?_, fun _ => ⟨rfl, rfl⟩, ?_, ?_, ?_, ?_, ?_, ?_, ?_, fun _ => ?_, rfl,
    fun h => (by cases h), ?_⟩, rfl⟩ <;> decide +kernel

theorem witness_StepKeepsTheRanges :
    let c := { Cfg.por with strength := 0x40000000, sshape := 0xC0000000, bshape := 0x80000000, gdepth := 0x3F800000 }
    c.InRange ∧ Pend.por.InRange ∧ step { State.reset with cfg := c } = .next { State.reset with cfg := c } := by
  refine ⟨⟨?_, ?_, ?_, ?_⟩, ⟨?_, ?_, ?_, ?_⟩, rfl⟩ <;> decide +kernel

theorem witness_StepKeepsTheFloor :
    let s := { State.reset with agenda := [.engine] }
    State.Wf Config.params s ∧ Memory.floored Config.params s.mem ∧ step s = .next State.reset := by
  have h : atLeastEps Config.params Config.eps := by constructor <;> decide +kernel
  refine ⟨⟨Memory.por_wf _, ?_, ?_, fun _ => ⟨rfl, rfl⟩, ?_, ?_, ?_, ?_, ?_, ?_, ?_, fun h => (by cases h), rfl,
    fun _ => rfl, ?_⟩, ⟨fun v hv => ?_, fun row hr v hv => ?_⟩, rfl⟩
  iterate 10 (decide +kernel)
  · rw [List.eq_of_mem_replicate hv]
    exact h
  · rw [List.eq_of_mem_replicate hr] at hv
    rw [List.eq_of_mem_replicate hv]
    exact h

end Sys2Proof.Machine.Slice0Tests
end

section
/-! PROOFS of the statements about the state (10_state.md): the reserved part of the register window (R55), the
sequencer as a function of the sample counter (R25), and what may write the configuration (R22). -/

namespace Sys2Proof.Machine

/-! ## Reserved offsets (R55) -/

/-- The offsets from 0x04C up have no row in the register table (R45). -/
theorem readValue_reserved (P : Params) (s : State) {o : Nat} (h : 0x04C ≤ o) : readValue P s o = 0 := by
  unfold readValue
  split
  case h_19 => rfl
  all_goals omega

theorem memRead_reserved (P : Params) {o : BitVec 12} (s : State) (hlo : 0x04C ≤ o.toNat)
    (hal : o.toNat % 4 = 0) : memRead P o 4 s = (0, s) := by
  have hg : goodAccess o 4 = true := (goodAccess_iff o 4).2 ⟨rfl, hal⟩
  have hout : o.toNat ≠ offOutData := by unfold offOutData; omega
  simp [memRead, hg, hout, readValue_reserved P s hlo]

theorem memWrite_reserved (P : Params) {o : BitVec 12} (v : Word) (s : State) (hlo : 0x04C ≤ o.toNat)
    (hal : o.toNat % 4 = 0) : memWrite P o 4 v s = .next s := by
  have hg : goodAccess o 4 = true := (goodAccess_iff o 4).2 ⟨rfl, hal⟩
  have herr : o.toNat ≠ offErr := by unfold offErr; omega
  have hlatch : o.toNat ≠ offCmdLo := by unfold offCmdLo; omega
  have hissue : o.toNat ≠ offCmdHi := by unfold offCmdHi; omega
  have hin : o.toNat ≠ offInData := by unfold offInData; omega
  simp [memWrite, hg, herr, hlatch, hissue, hin]

/-- Settles O23: a reserved offset is a good access at none of the registers that do something. -/
theorem reservedOffsetsReadZeroIgnoreWrites : Obligations.ReservedOffsetsReadZeroIgnoreWrites := by
  unfold Obligations.ReservedOffsetsReadZeroIgnoreWrites
  intro P o v s hlo hal
  exact ⟨memRead_reserved P s hlo hal, memWrite_reserved P v s hlo hal⟩

/-! ## The sequencer and the sample counter (R25, R104) -/

/-- The step of the scheduler while `WARM` counts up to the first frame (R104). -/
theorem advanceScheduler_warming {P : Params} {s : State} (h : s.warm < P.n) :
    advanceScheduler P s = { s with
      idx := (s.idx + 1) % (2 * P.n)
      warm := s.warm + 1
      hopPhase := if s.warm + 1 = P.n then 0 else s.hopPhase } := if_pos h

/-- The step of the scheduler once `WARM` has reached `N` (R104). -/
theorem advanceScheduler_primed {P : Params} {s : State} (h : ¬ s.warm < P.n) :
    advanceScheduler P s = { s with
      idx := (s.idx + 1) % (2 * P.n)
      hopPhase := (s.hopPhase + 1) % P.h } := if_neg h

namespace State.Counts

theorem por (P : Params) (hn : 0 < P.n) : State.Counts P (State.por P) 0 where
  idx := (Nat.zero_mod _).symm
  warm := (Nat.zero_min _).symm
  hopPhase := (if_neg (by omega)).symm

/-- Only the three sequencer fields matter. -/
theorem of_seq_eq {P : Params} {s t : State} {c : Nat} (h : State.Counts P s c)
    (hseq : t.idx = s.idx ∧ t.warm = s.warm ∧ t.hopPhase = s.hopPhase) : State.Counts P t c := by
  obtain ⟨hidx, hwarm, hhop⟩ := hseq
  exact ⟨hidx.trans h.idx, hwarm.trans h.warm, hhop.trans h.hopPhase⟩

/-- The test the scheduler branches on, `WARM < N`, says that the counter is below `N`. -/
theorem warm_lt_iff {P : Params} {s : State} {c : Nat} (h : State.Counts P s c) :
    s.warm < P.n ↔ c < P.n := by
  rw [h.warm]
  omega

/-- Before the first frame `WARM` is the counter itself and the phase rests at 0. -/
theorem of_lt {P : Params} {s : State} {c : Nat} (h : State.Counts P s c) (hc : c < P.n) :
    s.warm = c ∧ s.hopPhase = 0 :=
  ⟨h.warm.trans (Nat.min_eq_left hc.le), h.hopPhase.trans (if_neg (by omega))⟩

/-- From `N` samples on, `WARM` stays at `N` and the phase is the excess modulo `H`. -/
theorem of_le {P : Params} {s : State} {c : Nat} (h : State.Counts P s c) (hc : P.n ≤ c) :
    s.warm = P.n ∧ s.hopPhase = (c - P.n) % P.h :=
  ⟨h.warm.trans (Nat.min_eq_right hc), h.hopPhase.trans (if_pos hc)⟩

/-- The index of one more sample, modulo `2N`. -/
theorem idx_succ {P : Params} {s : State} {c : Nat} (h : State.Counts P s c) :
    (s.idx + 1) % (2 * P.n) = (c + 1) % (2 * P.n) := by
  rw [h.idx, Nat.mod_add_mod]

/-- The phase of one more sample, once the first frame is out. -/
theorem hopPhase_succ {P : Params} {s : State} {c : Nat} (h : State.Counts P s c) (hc : P.n ≤ c) :
    (s.hopPhase + 1) % P.h = (c + 1 - P.n) % P.h := by
  rw [(h.of_le hc).2, Nat.mod_add_mod, Nat.sub_add_comm hc]

/-- One step of the scheduler takes the fields of the counter `c` to those of `c + 1`. -/
theorem succ {P : Params} {s : State} {c : Nat} (h : State.Counts P s c) :
    State.Counts P (advanceScheduler P s) (c + 1) := by
  by_cases hc : c < P.n
  · obtain ⟨hwarm, hhop⟩ := h.of_lt hc
    rw [advanceScheduler_warming (h.warm_lt_iff.2 hc)]
    refine ⟨h.idx_succ, ?_, ?_⟩
    · show s.warm + 1 = min (c + 1) P.n
      omega
    · show (if s.warm + 1 = P.n then 0 else s.hopPhase) = _
      rw [hwarm, hhop, ite_self]
      split
      · rw [show c + 1 - P.n = 0 by omega, Nat.zero_mod]
      · rfl
  · have hn : P.n ≤ c := not_lt.1 hc
    rw [advanceScheduler_primed (mt h.warm_lt_iff.1 hc)]
    refine ⟨h.idx_succ, ?_, ?_⟩
    · show s.warm = min (c + 1) P.n
      rw [(h.of_le hn).1]
      omega
    · show (s.hopPhase + 1) % P.h = _
      rw [h.hopPhase_succ hn, if_pos (by omega)]

/-- The scheduler calls for a frame at the counts `N`, `N + H`, `N + 2H`, … (R104). -/
theorem frameDue_eq {P : Params} {s : State} {c : Nat} (h : State.Counts P s c) :
    frameDue P s = decide (P.n ≤ c + 1 ∧ (c + 1 - P.n) % P.h = 0) := by
  unfold frameDue
  by_cases hc : c < P.n
  · rw [if_pos (h.warm_lt_iff.2 hc), (h.of_lt hc).1]
    have first : c + 1 = P.n ↔ P.n ≤ c + 1 ∧ (c + 1 - P.n) % P.h = 0 := by
      constructor
      · intro he
        rw [he, Nat.sub_self, Nat.zero_mod]
        exact ⟨le_rfl, rfl⟩
      · rintro ⟨hle, -⟩
        omega
    exact decide_eq_decide.2 first
  · have hn : P.n ≤ c := not_lt.1 hc
    rw [if_neg (mt h.warm_lt_iff.1 hc), h.hopPhase_succ hn]
    exact decide_eq_decide.2 (iff_and_self.2 fun _ => by omega)

end State.Counts

/-- Settles O36: what a sample step does to the sequencer is the scheduler's step, which adds 1 to the counter. -/
theorem sequencerFollowsTheSampleCounter : Obligations.SequencerFollowsTheSampleCounter := by
  unfold Obligations.SequencerFollowsTheSampleCounter
  intro P hn _
  refine ⟨State.Counts.por P hn, fun s c x h => ⟨?_, h.frameDue_eq⟩⟩
  exact h.succ.of_seq_eq (sampleStep_seq P x s)

/-! ## What writes the configuration (R22) -/

theorem gateBlockUpdate_cfg (P : Params) (l : Word) (s : State) : (gateBlockUpdate P l s).cfg = s.cfg := by
  obtain ⟨-, h⟩ | ⟨-, h⟩ := gateBlockUpdate_cases P l s <;> rw [h]

theorem telemetryUpdate_cfg (P : Params) (s : State) : (telemetryUpdate P s).cfg = s.cfg := by
  obtain ⟨-, h⟩ | ⟨-, -, h⟩ | ⟨-, -, h⟩ := telemetryUpdate_cases P s <;> rw [h]

/-- The engine reads the configuration and never writes it. -/
theorem engineBlock_cfg (P : Params) (s : State) : (engineBlock P s).cfg = s.cfg :=
  calc (engineBlock P s).cfg
    _ = (telemetryUpdate P (runSamples P s.jobX (gateBlockUpdate P s.jobL s)).1).cfg := complete_cfg _ _
    _ = (runSamples P s.jobX (gateBlockUpdate P s.jobL s)).1.cfg := telemetryUpdate_cfg P _
    _ = (gateBlockUpdate P s.jobL s).cfg := (runSamples_sampleFrame P _ _).cfg
    _ = s.cfg := gateBlockUpdate_cfg P _ s

theorem engineTurn_cfg (P : Params) (s : State) : (engineTurn P s).cfg = s.cfg := by
  unfold engineTurn
  split
  · exact engineBlock_cfg P s
  · rfl

theorem readAndKeep_cfg (P : Params) (o : BitVec 12) (size : Nat) (s : State) :
    (readAndKeep P o size s).cfg = s.cfg := by
  change (memRead P o size s).2.cfg = s.cfg
  obtain h | ⟨w, rest, -, h⟩ | h | h := memRead_state P o size s
  · rw [h, seterr_cfg]
  · rw [h]
  · rw [h, seterr_cfg]
  · rw [h]

theorem pushIn_cfg (P : Params) (v : Word) (s : State) : (pushIn P v s).cfg = s.cfg := by
  obtain ⟨-, h⟩ | ⟨-, h⟩ := pushIn_cases P v s
  · rw [h, seterr_cfg]
  · rw [h]

theorem drainPending_cfg (P : Params) (s : State) : (drainPending P s).cfg = drainCfg s.pend s.cfg := by
  obtain ⟨-, h⟩ | ⟨-, h⟩ := drainPending_cases P s
  · rw [h]
  · rw [h, resetAdaptive_cfg]

/-- The configuration over a `PROCESS`: drained if the block is accepted, kept if it is turned down. -/
theorem processCommand_cfg_cases (P : Params) (l : Word) (s : State) :
    (processCommand P l s).cfg = s.cfg
      ∨ (s.busy = false ∧ (processCommand P l s).busy = true
          ∧ (processCommand P l s).cfg = drainCfg s.pend s.cfg) := by
  obtain ⟨-, h⟩ | ⟨hidle, -, h⟩ | ⟨-, -, h⟩ := processCommand_cases P l s
  · exact .inl (by rw [h, seterr_cfg])
  · refine .inr ⟨hidle, ?_⟩
    rw [h, accept_eq]
    exact ⟨rfl, drainPending_cfg P s⟩
  · exact .inl (by rw [h, seterr_cfg])

/-- The configuration over a command: only an accepted `PROCESS` writes it. -/
theorem issueInstr_cfg_cases {P : Params} {i : Instr} {s t : State} (h : issueInstr P i s = .next t) :
    t.cfg = s.cfg
      ∨ ∃ l, i = .process l ∧ s.busy = false ∧ t.busy = true ∧ t.cfg = drainCfg s.pend s.cfg := by
  obtain rfl | rfl | ⟨p, rfl⟩ | ⟨l, rfl, rfl⟩ := issueInstr_cases h
  · exact .inl rfl
  · exact .inl (seterr_cfg _ s)
  · exact .inl rfl
  · exact (processCommand_cfg_cases P l s).imp_right fun haccept => ⟨l, rfl, haccept⟩

/-- The configuration over a host write: only the write of `CMD_HI` that issues an accepted `PROCESS` writes it. -/
theorem memWrite_cfg_cases {P : Params} {o : BitVec 12} {size : Nat} {v : Word} {s t : State}
    (h : memWrite P o size v s = .next t) :
    t.cfg = s.cfg
      ∨ (o = 0x014 ∧ size = 4 ∧ ∃ l, decode (commandWord v s.cmdLo) = .instr (.process l)
          ∧ s.busy = false ∧ t.busy = true ∧ t.cfg = drainCfg s.pend s.cfg) := by
  obtain ⟨-, rfl⟩ | ⟨-, -, rfl⟩ | rfl | ⟨hgood, hoff, i, hdec, hissue⟩ | rfl | rfl | rfl := memWrite_cases h
  · exact .inl (seterr_cfg _ s)
  · exact .inl rfl
  · exact .inl rfl
  · refine (issueInstr_cfg_cases hissue).imp_right ?_
    rintro ⟨l, rfl, haccept⟩
    exact ⟨BitVec.eq_of_toNat_eq hoff, ((goodAccess_iff o size).1 hgood).1, l, hdec, haccept⟩
  · exact .inl (seterr_cfg _ s)
  · exact .inl (pushIn_cfg P v s)
  · exact .inl rfl

/-- Settles O55, by what each event of the environment does to the configuration. -/
theorem onlyAcceptAndPowerOnWriteConfiguration : Obligations.OnlyAcceptAndPowerOnWriteConfiguration := by
  unfold Obligations.OnlyAcceptAndPowerOnWriteConfiguration
  intro s t h
  cases hagenda : s.agenda with
  | nil =>
    rw [step_engine s hagenda] at h
    cases h
    exact .inl (engineTurn_cfg _ s)
  | cons e rest =>
    rw [step_event s hagenda] at h
    obtain ⟨o, size, rfl, rfl⟩ | ⟨o, size, v, rfl, hwrite⟩ | ⟨rfl, rfl⟩ | ⟨rfl, rfl⟩ := runEvent_cases h
    · exact .inl (readAndKeep_cfg _ o size _)
    · refine (memWrite_cfg_cases hwrite).imp_right fun haccept => .inr ?_
      obtain ⟨rfl, rfl, l, haccept⟩ := haccept
      exact ⟨v, l, rest, rfl, haccept⟩
    · exact .inl (engineTurn_cfg _ _)
    · exact .inr (.inl ⟨rest, rfl, rfl⟩)

end Sys2Proof.Machine
end

section
/-! PROOFS of the statements about host accesses (20_memory.md): what a bad access does (R64). -/

namespace Sys2Proof.Machine

/-! ## Bad accesses (R64) -/

/-- The accesses the guard turns away are those of R64. -/
theorem goodAccess_eq_false_iff (o : BitVec 12) (size : Nat) :
    goodAccess o size = false ↔ size ≠ 4 ∨ o.toNat % 4 ≠ 0 := by
  rw [← Bool.not_eq_true, goodAccess_iff, not_and_or]

/-- `BAD_ACCESS` is bit 8 of `ERR`, so recording it keeps every other bit and every other field. -/
theorem seterr_badAccess (s : State) : seterr .badAccess s = { s with err := s.err ||| 0x100 } := rfl

/-- Settles O22: the guard takes the bad access before any register is looked at. -/
theorem badAccessOnlySetsBadAccess : Obligations.BadAccessOnlySetsBadAccess := by
  unfold Obligations.BadAccessOnlySetsBadAccess
  intro P o size v s hbad
  have hguard : goodAccess o size = false := (goodAccess_eq_false_iff o size).2 hbad
  rw [← seterr_badAccess]
  exact ⟨memRead_bad P s hguard, memWrite_bad P v s hguard⟩

end Sys2Proof.Machine
end

section
/-! PROOFS of the statements about the encoding (30_encoding.md): invalid messages (R84) and the table of encoding
examples (R93). -/

namespace Sys2Proof.Machine

/-! ## Invalid messages (R83, R84) -/

theorem legal_bool_eq_false_iff (p : Word) : PayloadForm.bool.legal p = false ↔ 1 < p.toNat := by
  simp [PayloadForm.legal]

theorem legal_enum_eq_false_iff (codes : Nat) (p : Word) :
    (PayloadForm.enum codes).legal p = false ↔ codes ≤ p.toNat := by
  simp [PayloadForm.legal]

theorem legal_f32_eq_false_iff (p : Word) : PayloadForm.f32.legal p = false ↔ isNaN32 p = true := by
  simp [PayloadForm.legal]

/-- The form `F32` rejects a NaN whatever the command's range. -/
theorem f32Operand_nan (lo hi : F64) {p : Word} (h : isNaN32 p = true) : f32Operand lo hi p = none := if_pos h

/-- A message whose payload denotes nothing is discarded, but for `BAD_VALUE`, bit 1 of `ERR`. -/
theorem issueMessage_invalid {α : Type} {operand : Option α} (h : operand = none) (put : α → Pend → Pend)
    (s : State) : issueMessage operand put s = { s with err := s.err ||| 0x2 } := by
  rw [h]
  rfl

/-- Settles O9: in each form with a check, an illegal payload denotes nothing; `NONE` and `U32` have no illegal
payload. -/
theorem invalidMessageOnlySetsBadValue : Obligations.InvalidMessageOnlySetsBadValue := by
  unfold Obligations.InvalidMessageOnlySetsBadValue
  intro i s h
  have discarded {α : Type} {operand : Option α} (hnone : operand = none) (put : α → Pend → Pend) :
      (.next (issueMessage operand put s) : Result) = .next { s with err := s.err ||| 0x2 } :=
    congrArg _ (issueMessage_invalid hnone put s)
  cases i with
  | nop p => exact Bool.noConfusion h
  | setEnabled p => exact discarded (boolOperand_illegal ((legal_bool_eq_false_iff p).1 h)) _
  | setStrength p => exact discarded (f32Operand_nan _ _ ((legal_f32_eq_false_iff p).1 h)) _
  | reset p => exact Bool.noConfusion h
  | setProfile p => exact discarded (profileOperand_illegal ((legal_enum_eq_false_iff 2 p).1 h)) _
  | setNemethod p => exact discarded (neMethodOperand_illegal ((legal_enum_eq_false_iff 2 p).1 h)) _
  | setGainlaw p => exact discarded (gainLawOperand_illegal ((legal_enum_eq_false_iff 3 p).1 h)) _
  | setSmoother p => exact discarded (boolOperand_illegal ((legal_bool_eq_false_iff p).1 h)) _
  | setSshape p => exact discarded (f32Operand_nan _ _ ((legal_f32_eq_false_iff p).1 h)) _
  | setBshape p => exact discarded (f32Operand_nan _ _ ((legal_f32_eq_false_iff p).1 h)) _
  | setGdepth p => exact discarded (f32Operand_nan _ _ ((legal_f32_eq_false_iff p).1 h)) _
  | process l => exact Bool.noConfusion h

/-! ## The word of a command and its two halves (R63, R81, R88) -/

/-- A command's opcode is its row of the opcode map. -/
theorem opcodeMap_opcode (i : Instr) : opcodeMap (opcode i).toNat i.payload = some i := by
  cases i <;> rfl

theorem decode_encode (i : Instr) : decode (encode i) = .instr i := by
  obtain ⟨hop, hrsv, hpayload, hmap⟩ := Laws.EncodeFields.of_map (opcodeMap_opcode i)
  simp [decode, hop, hrsv, hpayload, hmap]

/-- The half that is written to `CMD_HI`: the opcode above the zero reserved field. -/
theorem encodeHi_eq (i : Instr) : encodeHi i = opcode i ++ (0 : BitVec 24) :=
  BitVec.extractLsb'_append_eq_left

/-- The half that is written to `CMD_LO`: the payload. -/
theorem encodeLo_eq (i : Instr) : encodeLo i = i.payload :=
  BitVec.extractLsb'_append_eq_right

theorem commandWord_encode (i : Instr) : commandWord (encodeHi i) (encodeLo i) = encode i := by
  rw [encodeHi_eq, encodeLo_eq]
  rfl

/-- The accesses of a command: `CMD_LO`, then `CMD_HI`. -/
theorem commandEvents_eq (i : Instr) : commandEvents i = [wr32 0x010 (encodeLo i), wr32 0x014 (encodeHi i)] := rfl

/-! ## The table of encoding examples (R93) -/

/-- A row of the table holds once its words are the command's opcode and payload and its text assembles to the
command's accesses. -/
theorem encodingExample {line : String} {i : Instr} {hi lo : Word} (hhi : opcode i ++ (0 : BitVec 24) = hi)
    (hlo : i.payload = lo) (hline : assemble line = some (.accesses (commandEvents i))) :
    encodeHi i = hi ∧ encodeLo i = lo ∧ decode (commandWord hi lo) = .instr i
      ∧ assemble line = some (.accesses [wr32 0x010 lo, wr32 0x014 hi]) := by
  obtain rfl : encodeHi i = hi := (encodeHi_eq i).trans hhi
  obtain rfl : encodeLo i = lo := (encodeLo_eq i).trans hlo
  refine ⟨rfl, rfl, ?_, hline⟩
  rw [commandWord_encode, decode_encode]

/-- Settles O19, row by row: the words are read off the command, and the text is assembled. -/
theorem encodingExamplesOfTheTable : Obligations.EncodingExamplesOfTheTable := by
  unfold Obligations.EncodingExamplesOfTheTable
  simp only [List.forall_mem_cons]
  refine ⟨encodingExample rfl rfl ?_, encodingExample rfl rfl ?_, encodingExample rfl rfl ?_,
    encodingExample rfl rfl ?_, encodingExample rfl rfl ?_, encodingExample rfl rfl ?_,
    encodingExample rfl rfl ?_, encodingExample rfl rfl ?_, encodingExample rfl rfl ?_,
    encodingExample rfl rfl ?_, encodingExample rfl rfl ?_, encodingExample rfl rfl ?_, List.forall_mem_nil _⟩
  all_goals decide +kernel

end Sys2Proof.Machine
end

section
/-! PROOFS of the statements about the transform (41_transform.md): the mirrored bins after gain, equalizer and
Hermitian rebuild (R126, R203). -/

namespace Sys2Proof.Machine

/-! ## Gain and equalizer on the lower bins (R203) -/

theorem elem_mapIdx {l : List F64} {k : Nat} (f : Nat → F64 → F64) (h : k < l.length) :
    elem (l.mapIdx f) k = f k (elem l k) := by
  simp [elem, h]

theorem elem_applyGainAndEq_re {P : Params} {z : Spectrum} {k : Nat} (p : Profile) (g : List F64)
    (hk : k ≤ P.n / 2) (hlen : k < z.re.length) :
    elem (applyGainAndEq P p g z).re k = F64.mul (F64.mul (elem z.re k) (elem g k)) (eqt P p k) :=
  (elem_mapIdx _ hlen).trans (if_pos hk)

theorem elem_applyGainAndEq_im {P : Params} {z : Spectrum} {k : Nat} (p : Profile) (g : List F64)
    (hk : k ≤ P.n / 2) (hlen : k < z.im.length) :
    elem (applyGainAndEq P p g z).im k = F64.mul (F64.mul (elem z.im k) (elem g k)) (eqt P p k) :=
  (elem_mapIdx _ hlen).trans (if_pos hk)

/-! ## Hermitian rebuild (R126), bin by bin -/

section
variable {P : Params} {k : Nat} (z : Spectrum)

theorem elem_rebuildHermitian_re (hk : k < P.n) :
    elem (rebuildHermitian P z).re k = if k ≤ P.n / 2 then elem z.re k else elem z.re (P.n - k) :=
  elem_perBin _ hk

theorem elem_rebuildHermitian_im (hk : k < P.n) :
    elem (rebuildHermitian P z).im k =
      if k = 0 ∨ k = P.n / 2 then F64.zero
      else if k < P.n / 2 then elem z.im k
      else F64.neg (elem z.im (P.n - k)) :=
  elem_perBin _ hk

theorem rebuildHermitian_re_lower (hn : 0 < P.n) (hk : k ≤ P.n / 2) :
    elem (rebuildHermitian P z).re k = elem z.re k := by
  rw [elem_rebuildHermitian_re z (by omega), if_pos hk]

/-- Bins 0 and N/2 are real. -/
theorem rebuildHermitian_im_real (hn : 0 < P.n) (hk : k = 0 ∨ k = P.n / 2) :
    elem (rebuildHermitian P z).im k = F64.zero := by
  rw [elem_rebuildHermitian_im z (by omega), if_pos hk]

theorem rebuildHermitian_im_lower (hpos : 1 ≤ k) (hk : k < P.n / 2) :
    elem (rebuildHermitian P z).im k = elem z.im k := by
  rw [elem_rebuildHermitian_im z (by omega), if_neg (by omega), if_pos hk]

/-- The real part of the mirrored bin is copied from the lower half. -/
theorem rebuildHermitian_re_mirror (hpos : 1 ≤ k) (hk : k < P.n / 2) :
    elem (rebuildHermitian P z).re (P.n - k) = elem (rebuildHermitian P z).re k := by
  rw [rebuildHermitian_re_lower z (by omega) hk.le, elem_rebuildHermitian_re z (by omega), if_neg (by omega),
    Nat.sub_sub_self (by omega)]

/-- The imaginary part of the mirrored bin is the one of the lower half, negated. -/
theorem rebuildHermitian_im_mirror (hpos : 1 ≤ k) (hk : k < P.n / 2) :
    elem (rebuildHermitian P z).im (P.n - k) = F64.neg (elem (rebuildHermitian P z).im k) := by
  rw [rebuildHermitian_im_lower z hpos hk, elem_rebuildHermitian_im z (by omega), if_neg (by omega),
    if_neg (by omega), Nat.sub_sub_self (by omega)]

end

/-- Settles O42: the rebuild keeps the scaled lower half and mirrors it; at an even `N` the half has `N/2 = m`. -/
theorem mirroredBinsGetTheSameGain : Obligations.MirroredBinsGetTheSameGain := by
  unfold Obligations.MirroredBinsGetTheSameGain
  intro P p g z m hn hm hre him
  have hhalf : P.n / 2 = m := by omega
  have hpos : 0 < P.n := by omega
  refine ⟨rebuildHermitian_im_real _ hpos (.inl rfl), rebuildHermitian_im_real _ hpos (.inr hhalf.symm),
    fun k hk => ?_, fun k h1 hk => ?_⟩
  · have hlow : k ≤ P.n / 2 := hk.trans hhalf.ge
    exact (rebuildHermitian_re_lower _ hpos hlow).trans (elem_applyGainAndEq_re p g hlow (by omega))
  · have hlow : k < P.n / 2 := hk.trans_eq hhalf.symm
    exact ⟨(rebuildHermitian_im_lower _ h1 hlow).trans (elem_applyGainAndEq_im p g hlow.le (by omega)),
      rebuildHermitian_re_mirror _ h1 hlow, rebuildHermitian_im_mirror _ h1 hlow⟩

end Sys2Proof.Machine
end

section
/-! PROOFS of the statements about the gate, the output stage and telemetry (47_gate_output.md): telemetry never feeds
back (R221), and the telemetry update of a block (R220).

R221 is proved by a commutation. An operation `f` that neither reads nor writes telemetry has the equation
`f s.forgetTelemetry = (f s).forgetTelemetry`. For a block, which writes a telemetry record, and for the events and
the step made of it, the two sides agree once telemetry is forgotten after the operation too. -/

namespace Sys2Proof.Machine

/-! ## The state without its telemetry (R37) -/

@[simp] theorem forgetTelemetry_idem (s : State) : s.forgetTelemetry.forgetTelemetry = s.forgetTelemetry := rfl
@[simp] theorem forgetTelemetry_cfg (s : State) : s.forgetTelemetry.cfg = s.cfg := rfl
@[simp] theorem forgetTelemetry_idx (s : State) : s.forgetTelemetry.idx = s.idx := rfl
@[simp] theorem forgetTelemetry_warm (s : State) : s.forgetTelemetry.warm = s.warm := rfl
@[simp] theorem forgetTelemetry_outFifo (s : State) : s.forgetTelemetry.outFifo = s.outFifo := rfl
@[simp] theorem forgetTelemetry_cmdLo (s : State) : s.forgetTelemetry.cmdLo = s.cmdLo := rfl
@[simp] theorem forgetTelemetry_busy (s : State) : s.forgetTelemetry.busy = s.busy := rfl
@[simp] theorem forgetTelemetry_jobL (s : State) : s.forgetTelemetry.jobL = s.jobL := rfl
@[simp] theorem forgetTelemetry_jobX (s : State) : s.forgetTelemetry.jobX = s.jobX := rfl
@[simp] theorem forgetTelemetry_agenda (s : State) : s.forgetTelemetry.agenda = s.agenda := rfl

/-! ## The frame pipeline neither reads nor writes telemetry -/

theorem seterr_forgetTelemetry (c : ErrCause) (s : State) :
    seterr c s.forgetTelemetry = (seterr c s).forgetTelemetry := rfl

theorem seterrIf_forgetTelemetry (b : Bool) (c : ErrCause) (s : State) :
    seterrIf b c s.forgetTelemetry = (seterrIf b c s).forgetTelemetry := by
  cases b <;> rfl

theorem outWrite_forgetTelemetry (P : Params) (i : Nat) (v : F64) (s : State) :
    outWrite P i v s.forgetTelemetry = (outWrite P i v s).forgetTelemetry := rfl

theorem vadUpdate_forgetTelemetry (P : Params) (pw : List F64) (s : State) :
    vadUpdate P pw s.forgetTelemetry = (vadUpdate P pw s).forgetTelemetry := rfl

theorem legacyUpdate_forgetTelemetry (P : Params) (pw : List F64) (s : State) :
    legacyUpdate P pw s.forgetTelemetry = (legacyUpdate P pw s).forgetTelemetry := by
  symm
  exact (seterrIf_forgetTelemetry _ _ _).symm

theorem advancedUpdate_forgetTelemetry (P : Params) (pw : List F64) (s : State) :
    advancedUpdate P pw s.forgetTelemetry = (advancedUpdate P pw s).forgetTelemetry := by
  symm
  exact (seterrIf_forgetTelemetry _ _ _).symm

theorem noiseUpdate_forgetTelemetry (P : Params) (pw : List F64) (s : State) :
    noiseUpdate P pw s.forgetTelemetry = (noiseUpdate P pw s).forgetTelemetry := by
  unfold noiseUpdate
  rw [forgetTelemetry_cfg]
  cases s.cfg.neMethod with
  | legacy => exact legacyUpdate_forgetTelemetry P pw (countFrame s)
  | advanced => exact advancedUpdate_forgetTelemetry P pw (countFrame s)

theorem frameAnalysis_forgetTelemetry (P : Params) (start : Nat) (s : State) :
    frameAnalysis P start s.forgetTelemetry
      = ((frameAnalysis P start s).1, (frameAnalysis P start s).2.1,
          (frameAnalysis P start s).2.2.forgetTelemetry) := by
  have hz : extractAndWindow P start s.forgetTelemetry = extractAndWindow P start s := rfl
  have hbad : frameHasNonfinite P start s.forgetTelemetry = frameHasNonfinite P start s := rfl
  simp only [frameAnalysis, hz, hbad, seterrIf_forgetTelemetry, vadUpdate_forgetTelemetry,
    noiseUpdate_forgetTelemetry]

theorem frameGains_forgetTelemetry (P : Params) (pw : List F64) (s : State) :
    frameGains P pw s.forgetTelemetry = ((frameGains P pw s).1, (frameGains P pw s).2.forgetTelemetry) := by
  unfold frameGains
  rw [forgetTelemetry_cfg]
  cases s.cfg.smoother <;> rfl

theorem overlapAdd_forgetTelemetry (P : Params) (base : Nat) (z : Spectrum) (s : State) :
    overlapAdd P base z s.forgetTelemetry = (overlapAdd P base z s).forgetTelemetry := by
  unfold overlapAdd
  induction List.range P.n generalizing s with
  | nil => rfl
  | cons i is ih => exact ih (overlapAddAt P base z s i)

theorem frame_forgetTelemetry (P : Params) (start base : Nat) (s : State) :
    frame P start base s.forgetTelemetry = (frame P start base s).forgetTelemetry := by
  simp only [frame, frameAnalysis_forgetTelemetry, frameGains_forgetTelemetry, forgetTelemetry_cfg]
  exact overlapAdd_forgetTelemetry P base _ _

/-! ## Nor does the sample loop of a block -/

theorem inWrite_forgetTelemetry (P : Params) (i : Nat) (w : Word) (s : State) :
    inWrite P i w s.forgetTelemetry = (inWrite P i w s).forgetTelemetry := rfl

theorem advanceScheduler_forgetTelemetry (P : Params) (s : State) :
    advanceScheduler P s.forgetTelemetry = (advanceScheduler P s).forgetTelemetry := by
  by_cases h : s.warm < P.n
  · rw [advanceScheduler_warming h, advanceScheduler_warming (s := s.forgetTelemetry) h]
    rfl
  · rw [advanceScheduler_primed h, advanceScheduler_primed (s := s.forgetTelemetry) h]
    rfl

theorem sampleInput_forgetTelemetry (P : Params) (xw : Word) (s : State) :
    sampleInput P xw s.forgetTelemetry = (sampleInput P xw s).forgetTelemetry := by
  have hdue : frameDue P s.forgetTelemetry = frameDue P s := rfl
  unfold sampleInput
  rw [hdue, forgetTelemetry_idx, inWrite_forgetTelemetry, advanceScheduler_forgetTelemetry]
  cases frameDue P s
  · rfl
  · exact frame_forgetTelemetry P _ _ _

theorem selectOutput_forgetTelemetry (P : Params) (xw : Word) (warm0 i0 : Nat) (ola : F64) (s : State) :
    selectOutput P xw warm0 i0 ola s.forgetTelemetry
      = ((selectOutput P xw warm0 i0 ola s).1.forgetTelemetry, (selectOutput P xw warm0 i0 ola s).2) := by
  have hout : outputStage P s.forgetTelemetry ola = outputStage P s ola := rfl
  unfold selectOutput
  rw [forgetTelemetry_cfg, hout]
  split
  · rfl
  · split
    · rfl
    · split <;> rfl

theorem gateMultStep_forgetTelemetry (P : Params) (s : State) :
    gateMultStep P s.forgetTelemetry = (gateMultStep P s).forgetTelemetry := rfl

theorem outRead_forgetTelemetry (P : Params) (s : State) (i : Nat) :
    outRead P s.forgetTelemetry i = outRead P s i := rfl

theorem sampleStep_forgetTelemetry (P : Params) (xw : Word) (s : State) :
    sampleStep P xw s.forgetTelemetry
      = ((sampleStep P xw s).1.forgetTelemetry, (sampleStep P xw s).2) := by
  simp only [sampleStep, forgetTelemetry_idx, forgetTelemetry_warm, sampleInput_forgetTelemetry,
    gateMultStep_forgetTelemetry, outRead_forgetTelemetry, outWrite_forgetTelemetry, selectOutput_forgetTelemetry]

/-- The output words do not depend on telemetry, and the state after the samples differs in it only. -/
theorem runSamples_forgetTelemetry (P : Params) (xs : List Word) (s : State) :
    runSamples P xs s.forgetTelemetry
      = ((runSamples P xs s).1.forgetTelemetry, (runSamples P xs s).2) := by
  induction xs generalizing s with
  | nil => rfl
  | cons x xs ih => simp only [runSamples, sampleStep_forgetTelemetry, ih]

/-! ## The engine's turn -/

theorem gateBlockUpdate_forgetTelemetry (P : Params) (l : Word) (s : State) :
    gateBlockUpdate P l s.forgetTelemetry = (gateBlockUpdate P l s).forgetTelemetry := by
  symm
  exact apply_ite State.forgetTelemetry _ _ _

/-- The telemetry update is the one rule that reads telemetry, and it writes nothing else (R220). -/
theorem forgetTelemetry_telemetryUpdate (P : Params) (s : State) :
    (telemetryUpdate P s).forgetTelemetry = s.forgetTelemetry := by
  obtain ⟨-, h⟩ | ⟨-, -, h⟩ | ⟨-, -, h⟩ := telemetryUpdate_cases P s <;> rw [h] <;> rfl

theorem complete_forgetTelemetry (outs : List Word) (s : State) :
    complete outs s.forgetTelemetry = (complete outs s).forgetTelemetry := rfl

/-- A block, but for its telemetry, is the gate transition and the samples. -/
theorem forgetTelemetry_engineBlock (P : Params) (s : State) :
    (engineBlock P s).forgetTelemetry
      = complete (runSamples P s.jobX (gateBlockUpdate P s.jobL s)).2
          (runSamples P s.jobX (gateBlockUpdate P s.jobL s)).1.forgetTelemetry := by
  unfold engineBlock
  rw [← complete_forgetTelemetry, forgetTelemetry_telemetryUpdate]

theorem engineBlock_forgetTelemetry (P : Params) (s : State) :
    (engineBlock P s.forgetTelemetry).forgetTelemetry = (engineBlock P s).forgetTelemetry := by
  rw [forgetTelemetry_engineBlock, forgetTelemetry_engineBlock, forgetTelemetry_jobX, forgetTelemetry_jobL,
    gateBlockUpdate_forgetTelemetry, runSamples_forgetTelemetry, forgetTelemetry_idem]

theorem engineTurn_forgetTelemetry (P : Params) (s : State) :
    (engineTurn P s.forgetTelemetry).forgetTelemetry = (engineTurn P s).forgetTelemetry := by
  unfold engineTurn
  rw [forgetTelemetry_busy]
  split
  · exact engineBlock_forgetTelemetry P s
  · rfl

/-! ## Commands and host accesses -/

/-- Telemetry forgotten in the state an outcome leads to. -/
def forgetOutcome : Result → Result
  | .next s => .next s.forgetTelemetry
  | .fault r => .fault r
  | .refused r => .refused r

@[simp] theorem forgetOutcome_next (s : State) : forgetOutcome (.next s) = .next s.forgetTelemetry := rfl

@[simp] theorem forgetOutcome_idem (r : Result) : forgetOutcome (forgetOutcome r) = forgetOutcome r := by
  cases r <;> rfl

/-- What an outcome with telemetry forgotten says of the outcome itself. -/
theorem exists_next_of_forgetOutcome_eq {r : Result} {t : State} (h : forgetOutcome (.next t) = forgetOutcome r) :
    ∃ t', r = .next t' ∧ t.forgetTelemetry = t'.forgetTelemetry := by
  cases r with
  | next t' => exact ⟨t', rfl, Host.Outcome.next.inj h⟩
  | fault f => cases h
  | refused f => cases h

theorem drainPending_forgetTelemetry (P : Params) (s : State) :
    drainPending P s.forgetTelemetry = (drainPending P s).forgetTelemetry := by
  symm
  exact apply_ite State.forgetTelemetry _ _ _

theorem accept_forgetTelemetry (P : Params) (l : Word) (s : State) :
    accept P l s.forgetTelemetry = (accept P l s).forgetTelemetry := by
  rw [accept_eq, accept_eq, drainPending_forgetTelemetry]
  rfl

theorem processCommand_forgetTelemetry (P : Params) (l : Word) (s : State) :
    processCommand P l s.forgetTelemetry = (processCommand P l s).forgetTelemetry := by
  have hready : queuesReady P (u32Operand l) s.forgetTelemetry = queuesReady P (u32Operand l) s := rfl
  unfold processCommand
  rw [forgetTelemetry_busy, hready]
  split
  · rfl
  · split
    · exact accept_forgetTelemetry P l s
    · rfl

theorem issueMessage_forgetTelemetry {α : Type} (operand : Option α) (put : α → Pend → Pend) (s : State) :
    issueMessage operand put s.forgetTelemetry = (issueMessage operand put s).forgetTelemetry := by
  cases operand <;> rfl

theorem issueInstr_forgetTelemetry (P : Params) (i : Instr) (s : State) :
    issueInstr P i s.forgetTelemetry = forgetOutcome (issueInstr P i s) := by
  cases i
  case nop p => rfl
  case reset p => rfl
  case process l => exact congrArg Host.Outcome.next (processCommand_forgetTelemetry P l s)
  all_goals exact congrArg Host.Outcome.next (issueMessage_forgetTelemetry _ _ s)

theorem issueWord_forgetTelemetry (P : Params) (c : CmdWord) (s : State) :
    issueWord P c s.forgetTelemetry = forgetOutcome (issueWord P c s) := by
  unfold issueWord
  cases decode c with
  | instr i => exact issueInstr_forgetTelemetry P i s
  | illegal _ => rfl

theorem pushIn_forgetTelemetry (P : Params) (v : Word) (s : State) :
    pushIn P v s.forgetTelemetry = (pushIn P v s).forgetTelemetry := by
  symm
  exact apply_ite State.forgetTelemetry _ _ _

theorem memWrite_forgetTelemetry (P : Params) (o : BitVec 12) (size : Nat) (v : Word) (s : State) :
    memWrite P o size v s.forgetTelemetry = forgetOutcome (memWrite P o size v s) := by
  unfold memWrite
  rw [forgetTelemetry_cmdLo, issueWord_forgetTelemetry, pushIn_forgetTelemetry]
  simp only [apply_ite forgetOutcome]
  rfl

theorem popOut_forgetTelemetry (s : State) :
    popOut s.forgetTelemetry = ((popOut s).1, (popOut s).2.forgetTelemetry) := by
  unfold popOut
  rw [forgetTelemetry_outFifo]
  cases s.outFifo <;> rfl

/-- Only the three telemetry registers show telemetry (R260). -/
theorem readValue_forgetTelemetry (P : Params) (s : State) {o : Nat} (hgr : o ≠ offTelemGr)
    (hflat : o ≠ offTelemFlat) (hseq : o ≠ offTelemSeq) :
    readValue P s.forgetTelemetry o = readValue P s o := by
  unfold readValue
  split
  -- The rows of `TELEM_GR`, `TELEM_FLAT` and `TELEM_SEQ`.
  case h_10 => exact absurd rfl hgr
  case h_11 => exact absurd rfl hflat
  case h_12 => exact absurd rfl hseq
  all_goals rfl

/-- A read of any other register returns the same word, and leaves the same but for telemetry. -/
theorem memRead_forgetTelemetry (P : Params) {o : BitVec 12} (size : Nat) (s : State)
    (hgr : o.toNat ≠ offTelemGr) (hflat : o.toNat ≠ offTelemFlat) (hseq : o.toNat ≠ offTelemSeq) :
    memRead P o size s.forgetTelemetry = ((memRead P o size s).1, (memRead P o size s).2.forgetTelemetry) := by
  unfold memRead
  rw [readValue_forgetTelemetry P s hgr hflat hseq, popOut_forgetTelemetry]
  split
  · rfl
  · split <;> rfl

/-! ## One step (R221) -/

/-- An event that is no read of a telemetry register reads none of the three offsets. -/
theorem readsTelemetry_eq_false_iff {o : BitVec 12} {size : Nat} :
    (Event.read (.window o) size).readsTelemetry = false
      ↔ o.toNat ≠ offTelemGr ∧ o.toNat ≠ offTelemFlat ∧ o.toNat ≠ offTelemSeq := by
  simp [Event.readsTelemetry, BitVec.toNat_eq, offTelemGr, offTelemFlat, offTelemSeq, and_assoc]

theorem readAndKeep_forgetTelemetry (P : Params) {o : BitVec 12} {size : Nat} (s : State)
    (h : (Event.read (.window o) size).readsTelemetry = false) :
    (readAndKeep P o size s.forgetTelemetry).forgetTelemetry = (readAndKeep P o size s).forgetTelemetry := by
  obtain ⟨hgr, hflat, hseq⟩ := readsTelemetry_eq_false_iff.1 h
  unfold readAndKeep
  rw [memRead_forgetTelemetry P size s hgr hflat hseq]
  rfl

/-- An event that is no read of a telemetry register has the same outcome, but for telemetry, whatever telemetry
was before it. -/
theorem runEvent_forgetTelemetry (P : Params) {e : Event} (s : State) (h : e.readsTelemetry = false) :
    forgetOutcome (runEvent P e s.forgetTelemetry) = forgetOutcome (runEvent P e s) := by
  cases e with
  | read target size =>
    cases target with
    | window o => exact congrArg Host.Outcome.next (readAndKeep_forgetTelemetry P s h)
    | outside => rfl
  | write target size v =>
    cases target with
    | window o => exact (congrArg forgetOutcome (memWrite_forgetTelemetry P o size v s)).trans (forgetOutcome_idem _)
    | outside => rfl
  | engine => exact congrArg Host.Outcome.next (engineTurn_forgetTelemetry P s)
  | powerOn => rfl

/-- The same for a step: its outcome, but for telemetry, is that of the state without telemetry. -/
theorem step_forgetTelemetry {s : State}
    (h : ∀ e rest, s.agenda = e :: rest → e.readsTelemetry = false) :
    forgetOutcome (step s.forgetTelemetry) = forgetOutcome (step s) := by
  cases hagenda : s.agenda with
  | nil =>
    rw [step_engine s hagenda, step_engine s.forgetTelemetry hagenda]
    exact congrArg Host.Outcome.next (engineTurn_forgetTelemetry _ s)
  | cons e rest =>
    rw [step_event s hagenda, step_event s.forgetTelemetry hagenda]
    exact runEvent_forgetTelemetry _ { s with agenda := rest } (h e rest hagenda)

/-- Settles O53: both steps have the outcome, but for telemetry, of the step without telemetry. -/
theorem telemetryNeverFeedsBack : Obligations.TelemetryNeverFeedsBack := by
  unfold Obligations.TelemetryNeverFeedsBack
  intro s s' t hsame hevent hstep
  have hagenda : s.agenda = s'.agenda := by
    rw [← forgetTelemetry_agenda s, hsame, forgetTelemetry_agenda]
  have hevent' : ∀ e rest, s'.agenda = e :: rest → e.readsTelemetry = false := hagenda ▸ hevent
  refine exists_next_of_forgetOutcome_eq ?_
  calc forgetOutcome (.next t)
    _ = forgetOutcome (step s) := by rw [hstep]
    _ = forgetOutcome (step s.forgetTelemetry) := (step_forgetTelemetry hevent).symm
    _ = forgetOutcome (step s'.forgetTelemetry) := by rw [hsame]
    _ = forgetOutcome (step s') := step_forgetTelemetry hevent'

/-! ## The telemetry of a block (R220) -/

/-- The state in which the block's telemetry update finds the machine: after the gate transition and the samples. -/
def samplesDone (P : Params) (s : State) : State := (runSamples P s.jobX (gateBlockUpdate P s.jobL s)).1

/-- After the telemetry update a block only queues its output words and ends. -/
theorem engineBlock_eq_complete (P : Params) (s : State) :
    engineBlock P s = complete (runSamples P s.jobX (gateBlockUpdate P s.jobL s)).2
      (telemetryUpdate P (samplesDone P s)) := rfl

/-- Up to its telemetry update a block changes neither telemetry nor the configuration. -/
theorem samplesDone_telemetry (P : Params) (s : State) :
    (samplesDone P s).cfg = s.cfg ∧ (samplesDone P s).telemPhase = s.telemPhase
      ∧ (samplesDone P s).telemGr = s.telemGr ∧ (samplesDone P s).telemFlat = s.telemFlat
      ∧ (samplesDone P s).telemSeq = s.telemSeq := by
  have hsamples : SampleFrame (gateBlockUpdate P s.jobL s) (samplesDone P s) := runSamples_sampleFrame P _ _
  rw [hsamples.cfg, hsamples.telemPhase, hsamples.telemGr, hsamples.telemFlat, hsamples.telemSeq]
  obtain ⟨-, h⟩ | ⟨-, h⟩ := gateBlockUpdate_cases P s.jobL s <;> simp [h]

/-- Settles O52: the three cases of the telemetry update, run in the state the samples leave. -/
theorem telemetryOfABlock : Obligations.TelemetryOfABlock := by
  unfold Obligations.TelemetryOfABlock
  intro P s
  obtain ⟨hcfg, hphase, hgr, hflat, hseq⟩ := samplesDone_telemetry P s
  have hnext : nextTelemPhase P (samplesDone P s) = (s.telemPhase + 1) % P.telemPeriod := by
    rw [nextTelemPhase, hphase]
  rw [engineBlock_eq_complete]
  obtain ⟨hoff, h⟩ | ⟨hon, hzero, h⟩ | ⟨hon, hpos, h⟩ := telemetryUpdate_cases P (samplesDone P s)
  · rw [hcfg] at hoff
    simp [h, hoff, hphase, hgr, hflat, hseq]
  · rw [hcfg] at hon
    rw [hnext] at hzero
    simp [h, hon, hzero, hseq]
  · rw [hcfg] at hon
    rw [hnext] at hpos h
    simp [h, hon, hpos, hgr, hflat, hseq]

end Sys2Proof.Machine
end

section
/-! PROOFS of the statements about the host registers (49_host_registers.md): the input push (R264). -/

namespace Sys2Proof.Machine

/-! ## The input push (R264) -/

/-- `IN_OVF` is bit 4 of `ERR`, so recording it keeps every other bit and every other field. -/
theorem seterr_inOvf (s : State) : seterr .inOvf s = { s with err := s.err ||| 0x10 } := rfl

theorem pushIn_of_room {P : Params} (v : Word) {s : State} (h : s.inFifo.length < P.inDepth) :
    pushIn P v s = { s with inFifo := s.inFifo ++ [v] } := by
  obtain ⟨hfull, -⟩ | ⟨-, hpush⟩ := pushIn_cases P v s
  · exact absurd h (Nat.not_lt.2 hfull)
  · exact hpush

theorem pushIn_of_full {P : Params} (v : Word) {s : State} (h : P.inDepth ≤ s.inFifo.length) :
    pushIn P v s = seterr .inOvf s := by
  obtain ⟨-, hdrop⟩ | ⟨hroom, -⟩ := pushIn_cases P v s
  · exact hdrop
  · exact absurd hroom (Nat.not_lt.2 h)

/-- A write of `IN_DATA` is the push, whatever the state: no `BUSY` guard stands before it. -/
theorem memWrite_inData (P : Params) (v : Word) (s : State) : memWrite P 0x018 4 v s = .next (pushIn P v s) := rfl

/-- Settles O26: the write is the push, which has one case with room and one at the depth. -/
theorem pushAppendsOrOverflows : Obligations.PushAppendsOrOverflows := by
  unfold Obligations.PushAppendsOrOverflows
  intro P v s
  rw [memWrite_inData]
  constructor
  · intro hroom
    rw [pushIn_of_room v hroom]
  · intro hfull
    rw [pushIn_of_full v hfull.ge, seterr_inOvf]

end Sys2Proof.Machine
end

section
/-! PROOFS of the statements about reset (70_reset_and_hazards.md): what the host reads after power-on reset
(R303). -/

namespace Sys2Proof.Machine

/-! ## Good reads (R260, R265) -/

/-- A good read away from `OUT_DATA` returns the register's word and has no effect. -/
theorem memRead_of_readValue {P : Params} {s : State} {o : BitVec 12} {w : Word} (hw : readValue P s o.toNat = w)
    (hreg : o.toNat % 4 = 0 ∧ o.toNat ≠ offOutData := by decide) : memRead P o 4 s = (w, s) := by
  obtain ⟨hal, hout⟩ := hreg
  have hgood : goodAccess o 4 = true := (goodAccess_iff o 4).2 ⟨rfl, hal⟩
  simp [memRead, hgood, hout, hw]

theorem memRead_outData (P : Params) (s : State) : memRead P 0x01C 4 s = popOut s := rfl

theorem popOut_nil {s : State} (h : s.outFifo = []) : popOut s = (0, seterr .outUnf s) := by
  rw [popOut, h]

/-! ## The packed registers after power-on (R47, R48, R53, R54) -/

/-- `D`, `V` and the logarithms of `H = 128` and `N = 512`. -/
theorem geometryWord_reference : geometryWord Config.params = 0x0C080709 := by decide +kernel

/-- No block is in flight and no sample has been seen; the gate is open. -/
theorem statusWord_reset : statusWord Config.params State.reset = 0x00000004 := by decide

/-- Bypass, plain and legacy (all code 0), the power law (code 2) and the smoother. -/
theorem activeCfgWord_por : activeCfgWord Cfg.por = 0x00000030 := by decide

/-- No command is pending. -/
theorem pendingWord_por : pendingWord Pend.por = 0 := by decide

/-! ## The registers after power-on (R303) -/

/-- Settles O29, row by row: a packed register shows its word above, any other its field at power-on. The output
queue is empty, so a read of `OUT_DATA` finds nothing to pop. -/
theorem registersAfterReset : Obligations.RegistersAfterReset := by
  unfold Obligations.RegistersAfterReset
  refine ⟨?_, ?_, ?_⟩
  · simp only [List.forall_mem_cons]
    exact ⟨memRead_of_readValue rfl, memRead_of_readValue geometryWord_reference,
      memRead_of_readValue statusWord_reset, memRead_of_readValue rfl, memRead_of_readValue rfl,
      memRead_of_readValue rfl, memRead_of_readValue rfl, memRead_of_readValue rfl, memRead_of_readValue rfl,
      memRead_of_readValue rfl, memRead_of_readValue rfl, memRead_of_readValue rfl,
      memRead_of_readValue activeCfgWord_por, memRead_of_readValue rfl, memRead_of_readValue rfl,
      memRead_of_readValue rfl, memRead_of_readValue rfl, memRead_of_readValue pendingWord_por,
      List.forall_mem_nil _⟩
  · intro o hlo hal
    rw [memRead_reserved _ _ hlo hal]
  · rw [memRead_outData, popOut_nil rfl]
    rfl

end Sys2Proof.Machine
end

section
/-! PROOFS of the statements about decode and issue (30_encoding.md): the round trips of the encoding (R81, R88), the
words that are refused (R89), and the accesses that issue a command (R82, R92, R263). -/

namespace Sys2Proof.Machine

/-! ## The fields of a word and its two halves (R63, R81) -/

/-- A word is its three fields. -/
theorem append_fields (c : CmdWord) : opField c ++ rsvField c ++ payloadField c = c := by
  have hhigh : opField c ++ rsvField c = c.extractLsb' 32 32 := BitVec.extractLsb'_append_extractLsb'_eq_extractLsb' rfl
  rw [hhigh]
  exact (BitVec.extractLsb'_append_extractLsb'_eq_extractLsb' rfl).trans BitVec.extractLsb'_eq_self

/-- The two halves of a word, as the bus carries them, make the word. -/
theorem commandWord_ofNat_toNat (c : CmdWord) :
    commandWord (BitVec.ofNat 32 (c.toNat / 2 ^ 32)) (BitVec.ofNat 32 c.toNat) = c := by
  apply BitVec.eq_of_toNat_eq
  have hc := c.isLt
  rw [commandWord, BitVec.toNat_append, ← Nat.shiftLeft_add_eq_or_of_lt (BitVec.isLt _), Nat.shiftLeft_eq,
    BitVec.toNat_ofNat, BitVec.toNat_ofNat]
  omega

theorem opField_toNat (c : CmdWord) : (opField c).toNat = c.toNat / 2 ^ 56 := by
  have hc := c.isLt
  rw [opField, BitVec.extractLsb'_toNat, Nat.shiftRight_eq_div_pow]
  omega

theorem rsvField_toNat (c : CmdWord) : (rsvField c).toNat = c.toNat / 2 ^ 32 % 2 ^ 24 := by
  rw [rsvField, BitVec.extractLsb'_toNat, Nat.shiftRight_eq_div_pow]

theorem commandWord_toNat (hi lo : Word) : (commandWord hi lo).toNat = hi.toNat * 2 ^ 32 + lo.toNat := by
  rw [commandWord, BitVec.toNat_append, ← Nat.shiftLeft_add_eq_or_of_lt lo.isLt, Nat.shiftLeft_eq]

/-! ## Round trips (R81, R88) -/

/-- The table's numbering reads a word as its halves. -/
theorem decodeTableWord_toNat {c : CmdWord} {i : Instr} (h : decode c = .instr i) :
    decodeTableWord 64 c.toNat = some i := by
  unfold decodeTableWord
  rw [Nat.mod_eq_of_lt c.isLt]
  dsimp only
  rw [commandWord_ofNat_toNat, h]

/-- Settles O15: the fields of an encoded command lead back to it, and its halves make its word. -/
theorem decodeOfEncodeIsTheCommand : Obligations.DecodeOfEncodeIsTheCommand := by
  unfold Obligations.DecodeOfEncodeIsTheCommand
  intro i
  refine ⟨decode_encode i, ?_, decodeTableWord_toNat (decode_encode i)⟩
  rw [commandWord_encode, decode_encode]

/-- A row of the opcode map is the command with that opcode and payload. -/
theorem opcodeMap_eq_some {op : BitVec 8} {p : Word} {i : Instr} (h : opcodeMap op.toNat p = some i) :
    opcode i = op ∧ i.payload = p := by
  have key : ∀ n : Nat, opcodeMap n p = some i → (opcode i).toNat = n ∧ i.payload = p := by
    intro n hn
    unfold opcodeMap at hn
    split at hn <;> cases hn <;> exact ⟨rfl, rfl⟩
  obtain ⟨hop, hpayload⟩ := key op.toNat h
  exact ⟨BitVec.eq_of_toNat_eq hop, hpayload⟩

/-- What a word that decodes to a command says: no reserved bit is set, and its opcode has a row. -/
theorem decode_eq_instr_iff (c : CmdWord) (i : Instr) :
    decode c = .instr i ↔ rsvField c = 0 ∧ opcodeMap (opField c).toNat (payloadField c) = some i := by
  unfold decode
  by_cases hrsv : rsvField c = 0
  · cases opcodeMap (opField c).toNat (payloadField c) <;> simp [hrsv]
  · simp only [ne_eq, hrsv, not_false_eq_true, if_true, reduceCtorEq, false_and]

/-- Settles O16: the command's three fields are those of the word. -/
theorem encodeOfDecodedWordIsTheWord : Obligations.EncodeOfDecodedWordIsTheWord := by
  unfold Obligations.EncodeOfDecodedWordIsTheWord
  intro c i h
  obtain ⟨hrsv, hmap⟩ := (decode_eq_instr_iff c i).1 h
  obtain ⟨hop, hpayload⟩ := opcodeMap_eq_some hmap
  rw [encode, hop, hpayload, ← hrsv, append_fields]

/-! ## Refused words (R82, R89) -/

/-- The opcodes without a row. -/
theorem opcodeMap_eq_none_iff (n : Nat) (p : Word) :
    opcodeMap n p = none ↔ (0x0B ≤ n ∧ n ≤ 0x0F) ∨ 0x11 ≤ n := by
  unfold opcodeMap
  split
  case h_13 =>
    simp only [true_iff, imp_false] at *
    omega
  all_goals simp

theorem decode_illegal_iff (c : CmdWord) :
    (∃ w, decode c = .illegal w) ↔
      rsvField c ≠ 0 ∨ opcodeMap (opField c).toNat (payloadField c) = none := by
  unfold decode
  by_cases hrsv : rsvField c = 0
  · cases opcodeMap (opField c).toNat (payloadField c) <;> simp [hrsv]
  · simp only [ne_eq, hrsv, not_false_eq_true, if_true, true_or, iff_true]
    exact ⟨_, rfl⟩

/-- Settles O17: the two checks of the decoder, as conditions on the word's number. -/
theorem decodeRefusesExactlyTheReservedWords : Obligations.DecodeRefusesExactlyTheReservedWords := by
  unfold Obligations.DecodeRefusesExactlyTheReservedWords
  intro c
  have hrsv : rsvField c = 0 ↔ c.toNat / 2 ^ 32 % 2 ^ 24 = 0 := by
    rw [← rsvField_toNat, BitVec.toNat_eq]
    rfl
  have htop : c.toNat / 2 ^ 56 ≤ 0xFF := by
    have := c.isLt
    omega
  rw [decode_illegal_iff, opcodeMap_eq_none_iff, opField_toNat, Ne, hrsv]
  omega

/-! ## The issue of a command (R82, R92, R263) -/

theorem memWrite_cmdHi (P : Params) (v : Word) (s : State) :
    memWrite P 0x014 4 v s = issueWord P (commandWord v s.cmdLo) s := rfl

theorem memWrite_cmdLo (P : Params) (v : Word) (s : State) : memWrite P 0x010 4 v s = .next { s with cmdLo := v } := rfl

theorem issueWord_illegal (P : Params) {c : CmdWord} (s : State) (h : ∃ w, decode c = .illegal w) :
    issueWord P c s = .next (seterr .illegalCmd s) := by
  obtain ⟨w, hw⟩ := h
  rw [issueWord, hw]

theorem issueWord_reference {c : CmdWord} {i : Instr} (s : State) (h : decode c = .instr i) :
    issueWord Config.params c s = exec i s := by
  rw [issueWord, h]
  exact issueInstr_reference i s

/-- Settles O18: the low 24 bits and the top byte of the value are the word's reserved field and opcode. -/
theorem illegalCommandOnlySetsIllegalCmd : Obligations.IllegalCommandOnlySetsIllegalCmd := by
  unfold Obligations.IllegalCommandOnlySetsIllegalCmd
  intro v s hbad
  have hillegal : ∃ w, decode (commandWord v s.cmdLo) = .illegal w := by
    refine (decodeRefusesExactlyTheReservedWords _).2 ?_
    rw [commandWord_toNat]
    have := s.cmdLo.isLt
    omega
  rw [memWrite_cmdHi, issueWord_illegal _ s hillegal]
  rfl

/-- A step whose event is a good write in the window. -/
theorem step_write {s : State} {o : BitVec 12} {size : Nat} {v : Word} {rest : List Event}
    (h : s.agenda = .write (.window o) size v :: rest) :
    step s = memWrite Config.params o size v { s with agenda := rest } := step_event s h

/-- A step whose event is a read in the window. -/
theorem step_read {s : State} {o : BitVec 12} {size : Nat} {rest : List Event}
    (h : s.agenda = .read (.window o) size :: rest) :
    step s = .next (readAndKeep Config.params o size { s with agenda := rest }) := step_event s h

/-- Settles O21: the write of `CMD_HI` issues the word formed with the latch. -/
theorem stepRunsTheDecodedCommand : Obligations.StepRunsTheDecodedCommand := by
  unfold Obligations.StepRunsTheDecodedCommand
  intro s rest v i hagenda hdecode
  rw [step_write hagenda, memWrite_cmdHi]
  exact issueWord_reference { s with agenda := rest } hdecode

/-- The first access of a command loads its payload into the latch. -/
theorem step_loadLatch {s : State} {i : Instr} {rest : List Event} (h : s.agenda = commandEvents i ++ rest) :
    step s = .next { s with cmdLo := i.payload, agenda := wr32 0x014 (encodeHi i) :: rest } := by
  rw [commandEvents_eq] at h
  rw [step_write h, ← encodeLo_eq]
  exact memWrite_cmdLo _ _ _

/-- Settles O20: the latch is loaded, then the command decoded from the two halves runs. -/
theorem commandAccessesIssueTheCommand : Obligations.CommandAccessesIssueTheCommand := by
  unfold Obligations.CommandAccessesIssueTheCommand
  intro i s rest hagenda
  rw [runSteps_next (step_loadLatch hagenda), runSteps_one]
  refine stepRunsTheDecodedCommand _ rest (encodeHi i) i rfl ?_
  show decode (commandWord (encodeHi i) i.payload) = .instr i
  rw [← encodeLo_eq, commandWord_encode, decode_encode]

end Sys2Proof.Machine
end

section
/-! SUPPORT for the proofs about steps: what a host access, a block and a step keep, each packaged once.

A property of states is kept by every host access once it is kept by the few things an access can do
(`AccessInvariant`), and by every step once the engine's block keeps it too (`StepInvariant`). A property that speaks
only of the configuration, the estimator, the running gains and `ERR` is kept by a block once the noise update, the
smoother and `seterr` keep it (`EngineInvariant`); a property of the sequencer, once the scheduler keeps it
(`engineBlock_keeps_sequencer`). -/

namespace Sys2Proof.Machine

/-! ## The ranges of the pending words over a command (R21, R232, R239 to R241) -/

theorem strengthOperand_within {p v : Word} (h : strengthOperand p = some v) :
    F64.within (f64 v) F64.zero F64.two = true :=
  f32Operand_within f64_zero f64_two (by decide) (by decide) (by decide) h

theorem sshapeOperand_within {p v : Word} (h : sshapeOperand p = some v) :
    F64.within (f64 v) (F64.neg F64.two) F64.two = true :=
  f32Operand_within f64_neg_two f64_two (by decide) (by decide) (by decide +kernel) h

theorem bshapeOperand_within {p v : Word} (h : bshapeOperand p = some v) :
    F64.within (f64 v) F64.zero F64.one = true :=
  f32Operand_within f64_zero f64_one (by decide) (by decide) (by decide) h

theorem gdepthOperand_within {p v : Word} (h : gdepthOperand p = some v) :
    F64.within (f64 v) F64.zero F64.one = true :=
  f32Operand_within f64_zero f64_one (by decide) (by decide) (by decide) h

/-- A message keeps the ranges if the value it issues does. -/
theorem issueMessage_inRange {α : Type} {operand : Option α} {put : α → Pend → Pend} {s : State}
    (hput : ∀ v, operand = some v → (put v s.pend).InRange) (hs : s.pend.InRange) :
    (issueMessage operand put s).pend.InRange := by
  cases operand with
  | none => exact hs
  | some v => exact hput v rfl

/-- Every command but `PROCESS` keeps the pending words in their ranges. -/
theorem issueInstr_inRange {P : Params} {i : Instr} {s t : State} (hi : isConfiguration i = true)
    (h : issueInstr P i s = .next t) (hs : s.pend.InRange) : t.pend.InRange := by
  obtain ⟨hstrength, hsshape, hbshape, hgdepth⟩ := hs
  cases i <;> cases h
  case nop => exact ⟨hstrength, hsshape, hbshape, hgdepth⟩
  case reset => exact ⟨hstrength, hsshape, hbshape, hgdepth⟩
  case process => cases hi
  case setStrength p =>
    exact issueMessage_inRange (fun v hv => ⟨strengthOperand_within hv, hsshape, hbshape, hgdepth⟩)
      ⟨hstrength, hsshape, hbshape, hgdepth⟩
  case setSshape p =>
    exact issueMessage_inRange (fun v hv => ⟨hstrength, sshapeOperand_within hv, hbshape, hgdepth⟩)
      ⟨hstrength, hsshape, hbshape, hgdepth⟩
  case setBshape p =>
    exact issueMessage_inRange (fun v hv => ⟨hstrength, hsshape, bshapeOperand_within hv, hgdepth⟩)
      ⟨hstrength, hsshape, hbshape, hgdepth⟩
  case setGdepth p =>
    exact issueMessage_inRange (fun v hv => ⟨hstrength, hsshape, hbshape, gdepthOperand_within hv⟩)
      ⟨hstrength, hsshape, hbshape, hgdepth⟩
  all_goals
    exact issueMessage_inRange (fun v _ => ⟨hstrength, hsshape, hbshape, hgdepth⟩)
      ⟨hstrength, hsshape, hbshape, hgdepth⟩

/-! ## Host accesses -/

/-- `I` is kept by everything a host write can do but a write of `ERR`: an error, a load of the latch, a push, a command
other than `PROCESS` (which keeps the ranges of the pending words) and an accept. -/
structure WriteInvariant (P : Params) (I : State → Prop) : Prop where
  seterr : ∀ {s : State} (c : ErrCause), I s → I (seterr c s)
  latch : ∀ {s : State} (v : Word), I s → I { s with cmdLo := v }
  push : ∀ {s : State} (v : Word), s.inFifo.length < P.inDepth → I s → I { s with inFifo := s.inFifo ++ [v] }
  pend : ∀ {s : State} {p : Pend}, (s.pend.InRange → p.InRange) → I s → I { s with pend := p }
  accept : ∀ {s : State} {l : Word}, s.busy = false → l.toNat ≤ s.inFifo.length →
    l.toNat + s.outFifo.length ≤ P.outDepth → I s → I (accept P l s)

namespace WriteInvariant

variable {P : Params} {I : State → Prop}

theorem process (H : WriteInvariant P I) (l : Word) {s : State} (hs : I s) : I (processCommand P l s) := by
  obtain ⟨-, h⟩ | ⟨hidle, ⟨hin, hout⟩, h⟩ | ⟨-, -, h⟩ := processCommand_cases P l s
  · rw [h]
    exact H.seterr _ hs
  · rw [h]
    exact H.accept hidle hin hout hs
  · rw [h]
    exact H.seterr _ hs

theorem issue (H : WriteInvariant P I) {i : Instr} {s t : State} (h : issueInstr P i s = .next t) (hs : I s) :
    I t := by
  cases hi : isConfiguration i
  case false =>
    cases i <;> cases hi
    cases h
    exact H.process _ hs
  case true =>
    have hrange := issueInstr_inRange hi h
    obtain rfl | rfl | ⟨p, rfl⟩ | ⟨l, rfl, rfl⟩ := issueInstr_cases h
    · exact hs
    · exact H.seterr _ hs
    · exact H.pend hrange hs
    · exact H.process l hs

/-- What the parts of a write keep, a write keeps, unless it writes `ERR`. -/
theorem write (H : WriteInvariant P I) {o : BitVec 12} {size : Nat} {v : Word} {s t : State}
    (h : memWrite P o size v s = .next t) (hs : I s)
    (hclear : o = 0x00C → size = 4 → I { s with err := errClear s.err v }) : I t := by
  obtain ⟨-, rfl⟩ | ⟨hgood, hoff, rfl⟩ | rfl | ⟨-, -, i, -, hissue⟩ | rfl | rfl | rfl := memWrite_cases h
  · exact H.seterr _ hs
  · exact hclear (BitVec.eq_of_toNat_eq hoff) ((goodAccess_iff o size).1 hgood).1
  · exact H.latch v hs
  · exact H.issue hissue hs
  · exact H.seterr _ hs
  · obtain ⟨-, hp⟩ | ⟨hroom, hp⟩ := pushIn_cases P v s
    · rw [hp]
      exact H.seterr _ hs
    · rw [hp]
      exact H.push v hroom hs
  · exact hs

end WriteInvariant

/-- `I` is kept by everything a host access can do but a write of `ERR`: what a write does, a pop, and the word a read
returns. -/
structure AccessInvariant (P : Params) (I : State → Prop) : Prop extends WriteInvariant P I where
  busData : ∀ {s : State} (d : Word), I s → I { s with busData := d }
  pop : ∀ {s : State} {w : Word} {rest : List Word}, s.outFifo = w :: rest → I s → I { s with outFifo := rest }

namespace AccessInvariant

variable {P : Params} {I : State → Prop}

theorem read (H : AccessInvariant P I) (o : BitVec 12) (size : Nat) {s : State} (hs : I s) :
    I (readAndKeep P o size s) := by
  have hread : I (memRead P o size s).2 := by
    obtain h | ⟨w, rest, hw, h⟩ | h | h := memRead_state P o size s
    · rw [h]
      exact H.seterr _ hs
    · rw [h]
      exact H.pop hw hs
    · rw [h]
      exact H.seterr _ hs
    · rw [h]
      exact hs
  exact H.busData _ hread

/-- What the parts of an access keep, a host access keeps, unless it writes `ERR`. -/
theorem event (H : AccessInvariant P I) {e : Event} {s t : State} (he : e.isHost = true)
    (h : runEvent P e s = .next t) (hs : I s)
    (hclear : ∀ v, e = .write (.window 0x00C) 4 v → I { s with err := errClear s.err v }) : I t := by
  obtain ⟨o, size, rfl, rfl⟩ | ⟨o, size, v, rfl, hwrite⟩ | ⟨rfl, -⟩ | ⟨rfl, -⟩ := runEvent_cases h
  · exact H.read o size hs
  · exact H.write hwrite hs (fun ho hsize => hclear v (by rw [ho, hsize]))
  · cases he
  · cases he

end AccessInvariant

/-! ## Steps -/

/-- `I` is kept by everything a step can do but a write of `ERR` and a power-on reset. -/
structure StepInvariant (I : State → Prop) : Prop extends AccessInvariant Config.params I where
  agenda : ∀ {s : State} (a : List Event), I s → I { s with agenda := a }
  block : ∀ {s : State}, s.busy = true → I s → I (engineBlock Config.params s)

namespace StepInvariant

variable {I : State → Prop}

theorem engine (H : StepInvariant I) {s : State} (hs : I s) : I (engineTurn Config.params s) := by
  unfold engineTurn
  split
  · exact H.block ‹_› hs
  · exact hs

/-- What the parts of a step keep, a step keeps, unless it writes `ERR` or is a power-on reset. -/
theorem step (H : StepInvariant I) {s t : State} (h : step s = .next t) (hs : I s)
    (hclear : ∀ v rest, s.agenda = .write (.window 0x00C) 4 v :: rest →
      I { s with agenda := rest, err := errClear s.err v })
    (hpower : ∀ rest, s.agenda = .powerOn :: rest →
      I (powerOnReset Config.params { s with agenda := rest })) : I t := by
  cases hagenda : s.agenda with
  | nil =>
    rw [step_engine s hagenda] at h
    cases h
    exact H.engine hs
  | cons e rest =>
    rw [step_event s hagenda] at h
    have hs' : I { s with agenda := rest } := H.agenda rest hs
    cases e with
    | read target size => exact H.event rfl h hs' (fun v hv => by cases hv)
    | write target size v =>
      refine H.event rfl h hs' (fun v' hv => ?_)
      exact hclear v' rest (hagenda.trans (by rw [hv]))
    | engine =>
      cases h
      exact H.engine hs'
    | powerOn =>
      cases h
      exact hpower rest hagenda

end StepInvariant

/-! ## What an accept leaves alone -/

/-- `t` has the sequencer, the rings, the output queue, the latch, `ERR`, telemetry and the environment of `s`. -/
structure AcceptFrame (s t : State) : Prop where
  idx : t.idx = s.idx
  warm : t.warm = s.warm
  hopPhase : t.hopPhase = s.hopPhase
  inRing : t.mem.inRing = s.mem.inRing
  outRing : t.mem.outRing = s.mem.outRing
  outFifo : t.outFifo = s.outFifo
  cmdLo : t.cmdLo = s.cmdLo
  err : t.err = s.err
  telemPhase : t.telemPhase = s.telemPhase
  agenda : t.agenda = s.agenda
  busData : t.busData = s.busData

theorem accept_frame (P : Params) (l : Word) (s : State) : AcceptFrame s (accept P l s) := by
  rw [accept_eq]
  obtain ⟨-, h⟩ | ⟨-, h⟩ := drainPending_cases P s <;> (rw [h]; constructor) <;> rfl

theorem accept_cfg (P : Params) (l : Word) (s : State) : (accept P l s).cfg = drainCfg s.pend s.cfg := by
  rw [accept_eq]
  exact drainPending_cfg P s

theorem accept_pend (P : Params) (l : Word) (s : State) : (accept P l s).pend = s.pend.clear := by
  rw [accept_eq]
  obtain ⟨-, h⟩ | ⟨-, h⟩ := drainPending_cases P s
  · rw [h]
  · rw [h]
    rfl

/-- The estimator counters over an accept: kept, or at 0 after a reset. -/
theorem accept_counters (P : Params) (l : Word) (s : State) :
    ((accept P l s).frameCnt = s.frameCnt ∧ (accept P l s).subPtr = s.subPtr ∧ (accept P l s).subCnt = s.subCnt)
      ∨ ((accept P l s).frameCnt = 0 ∧ (accept P l s).subPtr = 0 ∧ (accept P l s).subCnt = 0) := by
  rw [accept_eq]
  obtain ⟨-, h⟩ | ⟨-, h⟩ := drainPending_cases P s <;> rw [h]
  · exact .inl ⟨rfl, rfl, rfl⟩
  · exact .inr ⟨rfl, rfl, rfl⟩

/-- The memories over an accept: kept, or reset. -/
theorem accept_mem (P : Params) (l : Word) (s : State) :
    (accept P l s).mem = s.mem ∨ (accept P l s).mem = s.mem.resetAdaptive P := by
  rw [accept_eq]
  obtain ⟨-, h⟩ | ⟨-, h⟩ := drainPending_cases P s <;> rw [h]
  · exact .inl rfl
  · exact .inr rfl

/-! ## What a block leaves alone of the host's side -/

/-- `t` has the configuration, the shadow, the queues, the latch and the environment of `s`. -/
structure HostSide (s t : State) : Prop where
  cfg : t.cfg = s.cfg
  pend : t.pend = s.pend
  inFifo : t.inFifo = s.inFifo
  outFifo : t.outFifo = s.outFifo
  cmdLo : t.cmdLo = s.cmdLo
  agenda : t.agenda = s.agenda
  busData : t.busData = s.busData

theorem HostSide.trans {s t u : State} (h : HostSide s t) (k : HostSide t u) : HostSide s u where
  cfg := k.cfg.trans h.cfg
  pend := k.pend.trans h.pend
  inFifo := k.inFifo.trans h.inFifo
  outFifo := k.outFifo.trans h.outFifo
  cmdLo := k.cmdLo.trans h.cmdLo
  agenda := k.agenda.trans h.agenda
  busData := k.busData.trans h.busData

theorem SampleFrame.hostSide {s t : State} (h : SampleFrame s t) : HostSide s t :=
  ⟨h.cfg, h.pend, h.inFifo, h.outFifo, h.cmdLo, h.agenda, h.busData⟩

theorem gateBlockUpdate_hostSide (P : Params) (l : Word) (s : State) : HostSide s (gateBlockUpdate P l s) := by
  obtain ⟨-, h⟩ | ⟨-, h⟩ := gateBlockUpdate_cases P l s <;> rw [h] <;> constructor <;> rfl

theorem telemetryUpdate_hostSide (P : Params) (s : State) : HostSide s (telemetryUpdate P s) := by
  obtain ⟨-, h⟩ | ⟨-, -, h⟩ | ⟨-, -, h⟩ := telemetryUpdate_cases P s <;> rw [h] <;> constructor <;> rfl

/-- Up to the end of the job, a block leaves the host's side alone. -/
theorem block_hostSide (P : Params) (s : State) : HostSide s (telemetryUpdate P (samplesDone P s)) :=
  ((gateBlockUpdate_hostSide P s.jobL s).trans (runSamples_sampleFrame P s.jobX _).hostSide).trans
    (telemetryUpdate_hostSide P _)

/-- The words a block puts out. -/
def blockOutput (P : Params) (s : State) : List Word := (runSamples P s.jobX (gateBlockUpdate P s.jobL s)).2

theorem blockOutput_length (P : Params) (s : State) : (blockOutput P s).length = s.jobX.length :=
  runSamples_length P s.jobX _

theorem engineBlock_pend (P : Params) (s : State) : (engineBlock P s).pend = s.pend := (block_hostSide P s).pend
theorem engineBlock_inFifo (P : Params) (s : State) : (engineBlock P s).inFifo = s.inFifo := (block_hostSide P s).inFifo
theorem engineBlock_cmdLo (P : Params) (s : State) : (engineBlock P s).cmdLo = s.cmdLo := (block_hostSide P s).cmdLo
theorem engineBlock_agenda (P : Params) (s : State) : (engineBlock P s).agenda = s.agenda := (block_hostSide P s).agenda
theorem engineBlock_busData (P : Params) (s : State) : (engineBlock P s).busData = s.busData :=
  (block_hostSide P s).busData

theorem engineBlock_outFifo (P : Params) (s : State) :
    (engineBlock P s).outFifo = s.outFifo ++ blockOutput P s :=
  congrArg (· ++ blockOutput P s) (block_hostSide P s).outFifo

theorem engineBlock_busy (P : Params) (s : State) : (engineBlock P s).busy = false := rfl

/-! ## What a block keeps of the sequencer -/

/-- `t` has the sequencer of `s`. -/
def SameSequencer (s t : State) : Prop := t.idx = s.idx ∧ t.warm = s.warm ∧ t.hopPhase = s.hopPhase

theorem gateBlockUpdate_sequencer (P : Params) (l : Word) (s : State) : SameSequencer s (gateBlockUpdate P l s) := by
  obtain ⟨-, h⟩ | ⟨-, h⟩ := gateBlockUpdate_cases P l s <;> rw [h] <;> exact ⟨rfl, rfl, rfl⟩

theorem telemetryUpdate_sequencer (P : Params) (s : State) : SameSequencer s (telemetryUpdate P s) := by
  obtain ⟨-, h⟩ | ⟨-, -, h⟩ | ⟨-, -, h⟩ := telemetryUpdate_cases P s <;> rw [h] <;> exact ⟨rfl, rfl, rfl⟩

/-- What the scheduler keeps of the sequencer, a block keeps. -/
theorem engineBlock_keeps_sequencer {P : Params} {I : State → Prop}
    (hseq : ∀ {s t : State}, SameSequencer s t → I s → I t)
    (hadvance : ∀ {s : State}, I s → I (advanceScheduler P s)) {s : State} (hs : I s) : I (engineBlock P s) := by
  have hsamples : ∀ (xs : List Word) {s : State}, I s → I (runSamples P xs s).1 := by
    intro xs
    induction xs with
    | nil => exact id
    | cons x xs ih => exact fun {s} hs => ih (hseq (sampleStep_seq P x s) (hadvance hs))
  have hdone : I (samplesDone P s) := hsamples _ (hseq (gateBlockUpdate_sequencer P _ _) hs)
  exact hseq (telemetryUpdate_sequencer P _) hdone

/-! ## What a block keeps of the estimator, the running gains and `ERR` -/

/-- `t` has the configuration, the estimator's arrays and counters, the running gains and `ERR` of `s`. -/
structure SameEstimator (s t : State) : Prop where
  cfg : t.cfg = s.cfg
  sig : t.mem.sig = s.mem.sig
  noise : t.mem.noise = s.mem.noise
  lmin : t.mem.lmin = s.mem.lmin
  submin : t.mem.submin = s.mem.submin
  fsg : t.mem.fsg = s.mem.fsg
  frameCnt : t.frameCnt = s.frameCnt
  subPtr : t.subPtr = s.subPtr
  subCnt : t.subCnt = s.subCnt
  err : t.err = s.err

theorem inWrite_estimator (P : Params) (i : Nat) (w : Word) (s : State) : SameEstimator s (inWrite P i w s) := by
  constructor <;> rfl

theorem outWrite_estimator (P : Params) (i : Nat) (v : F64) (s : State) : SameEstimator s (outWrite P i v s) := by
  constructor <;> rfl

theorem vadUpdate_estimator (P : Params) (pw : List F64) (s : State) : SameEstimator s (vadUpdate P pw s) := by
  constructor <;> rfl

theorem gainUpdate_estimator (P : Params) (pw : List F64) (s : State) : SameEstimator s (gainUpdate P pw s) := by
  constructor <;> rfl

theorem gateMultStep_estimator (P : Params) (s : State) : SameEstimator s (gateMultStep P s) := by
  constructor <;> rfl

theorem complete_estimator (outs : List Word) (s : State) : SameEstimator s (complete outs s) := by
  constructor <;> rfl

theorem advanceScheduler_estimator (P : Params) (s : State) : SameEstimator s (advanceScheduler P s) := by
  unfold advanceScheduler
  split <;> constructor <;> rfl

theorem gateBlockUpdate_estimator (P : Params) (l : Word) (s : State) : SameEstimator s (gateBlockUpdate P l s) := by
  obtain ⟨-, h⟩ | ⟨-, h⟩ := gateBlockUpdate_cases P l s <;> rw [h] <;> constructor <;> rfl

theorem telemetryUpdate_estimator (P : Params) (s : State) : SameEstimator s (telemetryUpdate P s) := by
  obtain ⟨-, h⟩ | ⟨-, -, h⟩ | ⟨-, -, h⟩ := telemetryUpdate_cases P s <;> rw [h] <;> constructor <;> rfl

/-- `I` speaks only of what `SameEstimator` compares, and the engine's operations that write it keep `I`. -/
structure EngineInvariant (P : Params) (I : State → Prop) : Prop where
  same : ∀ {s t : State}, SameEstimator s t → I s → I t
  seterr : ∀ {s : State} (c : ErrCause), I s → I (seterr c s)
  noise : ∀ {s : State} (pw : List F64), I s → I (noiseUpdate P pw s)
  smoother : ∀ {s : State} (g : List F64), s.cfg.smoother = true → I s → I (smootherUpdate P g s)

namespace EngineInvariant

variable {P : Params} {I : State → Prop}

theorem seterrIf (H : EngineInvariant P I) (b : Bool) (c : ErrCause) {s : State} (hs : I s) : I (seterrIf b c s) := by
  cases b
  · exact hs
  · exact H.seterr c hs

theorem analysis (H : EngineInvariant P I) (start : Nat) {s : State} (hs : I s) :
    I (frameAnalysis P start s).2.2 :=
  H.noise _ (H.same (vadUpdate_estimator P _ _) (H.seterrIf _ _ hs))

theorem gains (H : EngineInvariant P I) (pw : List F64) {s : State} (hs : I s) : I (frameGains P pw s).2 := by
  have hgain : I (gainUpdate P pw s) := H.same (gainUpdate_estimator P pw s) hs
  unfold frameGains
  dsimp only
  split
  · exact H.smoother _ ‹_› hgain
  · exact hgain

theorem overlapAdd (H : EngineInvariant P I) (base : Nat) (z : Spectrum) {s : State} (hs : I s) :
    I (overlapAdd P base z s) := by
  unfold Machine.overlapAdd
  induction List.range P.n generalizing s with
  | nil => exact hs
  | cons i is ih => exact ih (H.same (outWrite_estimator P _ _ s) hs)

theorem frame (H : EngineInvariant P I) (start base : Nat) {s : State} (hs : I s) : I (frame P start base s) :=
  H.overlapAdd _ _ (H.gains _ (H.analysis start hs))

theorem sampleInput (H : EngineInvariant P I) (xw : Word) {s : State} (hs : I s) : I (sampleInput P xw s) := by
  have hadvance : I (advanceScheduler P (inWrite P s.idx xw s)) :=
    H.same (advanceScheduler_estimator P _) (H.same (inWrite_estimator P _ _ s) hs)
  unfold Machine.sampleInput
  dsimp only
  split
  · exact H.frame _ _ hadvance
  · exact hadvance

theorem selectOutput (H : EngineInvariant P I) (xw : Word) (warm0 i0 : Nat) (ola : F64) {s : State} (hs : I s) :
    I (selectOutput P xw warm0 i0 ola s).1 := by
  unfold Machine.selectOutput
  split
  · exact hs
  · split
    · exact hs
    · split
      · exact hs
      · exact H.seterr _ hs

theorem sampleStep (H : EngineInvariant P I) (xw : Word) {s : State} (hs : I s) : I (sampleStep P xw s).1 :=
  H.selectOutput _ _ _ _ (H.same (outWrite_estimator P _ _ _)
    (H.same (gateMultStep_estimator P _) (H.sampleInput xw hs)))

theorem runSamples (H : EngineInvariant P I) (xs : List Word) {s : State} (hs : I s) : I (runSamples P xs s).1 := by
  induction xs generalizing s with
  | nil => exact hs
  | cons x xs ih => exact ih (H.sampleStep x hs)

/-- What the noise update, the smoother and `seterr` keep, a block keeps. -/
theorem block (H : EngineInvariant P I) {s : State} (hs : I s) : I (engineBlock P s) := by
  have hdone : I (samplesDone P s) := H.runSamples _ (H.same (gateBlockUpdate_estimator P _ _) hs)
  exact H.same (complete_estimator _ _) (H.same (telemetryUpdate_estimator P _) hdone)

end EngineInvariant

/-! ## The noise update, field by field (R150) -/

@[simp] theorem seterrIf_frameCnt (b : Bool) (c : ErrCause) (s : State) : (seterrIf b c s).frameCnt = s.frameCnt := by
  cases b <;> rfl
@[simp] theorem seterrIf_subPtr (b : Bool) (c : ErrCause) (s : State) : (seterrIf b c s).subPtr = s.subPtr := by
  cases b <;> rfl
@[simp] theorem seterrIf_subCnt (b : Bool) (c : ErrCause) (s : State) : (seterrIf b c s).subCnt = s.subCnt := by
  cases b <;> rfl

/-- The smoothed powers a legacy frame leaves (R151, R152). -/
def legacySig (P : Params) (pw : List F64) (s : State) : List F64 :=
  (perBin P.nb (fun k => legacySmooth (elem s.mem.sig k) (elem pw k))).map (guardValue P)

/-- The minima a legacy frame leaves (R153). -/
def legacyLmin (P : Params) (pw : List F64) (s : State) : List F64 :=
  perBin P.nb (fun k => legacyMin ((s.frameCnt + 1) % 500) (elem (legacySig P pw s) k) (elem s.mem.lmin k))

/-- The noise estimates a legacy frame leaves (R154). -/
def legacyNoises (P : Params) (pw : List F64) (s : State) : List F64 :=
  perBin P.nb (fun k => legacyNoise P (elem s.mem.noise k) (elem (legacyLmin P pw s) k))

/-- The smoothed powers an advanced frame leaves (R151, R157). -/
def advancedSig (P : Params) (pw : List F64) (s : State) : List F64 :=
  (perBin P.nb (fun k => advancedSmooth s.cfg (elem s.mem.sig k) (elem pw k))).map (guardValue P)

/-- The subwindow minima an advanced frame leaves (R157, R158). -/
def advancedRows (P : Params) (pw : List F64) (s : State) : List (List F64) :=
  if subwindowEnds P s then
    (trackMinima P s.subPtr (advancedSig P pw s) s.mem.submin).set (nextPtr P s) (advancedSig P pw s)
  else trackMinima P s.subPtr (advancedSig P pw s) s.mem.submin

/-- The noise estimates an advanced frame leaves (R159). -/
def advancedNoises (P : Params) (pw : List F64) (s : State) : List F64 :=
  perBin P.nb (fun k => F64.max (F64.mul (biasCoef s.cfg) (minOfMinima P (advancedRows P pw s) k)) P.eps)

section
variable {P : Params} {s : State} (pw : List F64)

@[simp] theorem noiseUpdate_frameCnt : (noiseUpdate P pw s).frameCnt = (s.frameCnt + 1) % 500 := by
  unfold noiseUpdate
  split <;> exact seterrIf_frameCnt _ _ _

theorem noiseUpdate_legacy (h : s.cfg.neMethod = .legacy) :
    noiseUpdate P pw s = seterrIf (guardTrips (perBin P.nb (fun k => legacySmooth (elem s.mem.sig k) (elem pw k))))
      .stateGuard { countFrame s with mem := { s.mem with
        sig := legacySig P pw s, lmin := legacyLmin P pw s, noise := legacyNoises P pw s } } := by
  unfold noiseUpdate
  rw [h]
  rfl

theorem noiseUpdate_advanced (h : s.cfg.neMethod = .advanced) :
    noiseUpdate P pw s
      = seterrIf (guardTrips (perBin P.nb (fun k => advancedSmooth s.cfg (elem s.mem.sig k) (elem pw k))))
      .stateGuard { countFrame s with
        mem := { s.mem with
          sig := advancedSig P pw s, submin := advancedRows P pw s, noise := advancedNoises P pw s }
        subPtr := nextPtr P s
        subCnt := nextCnt P s } := by
  unfold noiseUpdate
  rw [h]
  rfl

theorem noiseUpdate_legacy_mem (h : s.cfg.neMethod = .legacy) :
    (noiseUpdate P pw s).mem = { s.mem with
      sig := legacySig P pw s, lmin := legacyLmin P pw s, noise := legacyNoises P pw s } := by
  rw [noiseUpdate_legacy pw h, seterrIf_mem]

theorem noiseUpdate_legacy_subPtr (h : s.cfg.neMethod = .legacy) : (noiseUpdate P pw s).subPtr = s.subPtr := by
  rw [noiseUpdate_legacy pw h, seterrIf_subPtr, countFrame_subPtr]

theorem noiseUpdate_legacy_subCnt (h : s.cfg.neMethod = .legacy) : (noiseUpdate P pw s).subCnt = s.subCnt := by
  rw [noiseUpdate_legacy pw h, seterrIf_subCnt, countFrame_subCnt]

theorem noiseUpdate_advanced_mem (h : s.cfg.neMethod = .advanced) :
    (noiseUpdate P pw s).mem = { s.mem with
      sig := advancedSig P pw s, submin := advancedRows P pw s, noise := advancedNoises P pw s } := by
  rw [noiseUpdate_advanced pw h, seterrIf_mem]

theorem noiseUpdate_advanced_subPtr (h : s.cfg.neMethod = .advanced) : (noiseUpdate P pw s).subPtr = nextPtr P s := by
  rw [noiseUpdate_advanced pw h, seterrIf_subPtr]

theorem noiseUpdate_advanced_subCnt (h : s.cfg.neMethod = .advanced) : (noiseUpdate P pw s).subCnt = nextCnt P s := by
  rw [noiseUpdate_advanced pw h, seterrIf_subCnt]

/-- The noise update writes `ERR` at most by `STATE_GUARD`. -/
theorem noiseUpdate_err :
    (noiseUpdate P pw s).err = s.err ∨ (noiseUpdate P pw s).err = (seterr .stateGuard s).err := by
  have hguard (b : Bool) {t : State} (ht : t.err = s.err) :
      (seterrIf b .stateGuard t).err = s.err ∨ (seterrIf b .stateGuard t).err = (seterr .stateGuard s).err := by
    cases b
    · exact .inl ht
    · exact .inr (congrArg (· ||| errBit .stateGuard) ht)
  cases h : s.cfg.neMethod with
  | legacy =>
    rw [noiseUpdate_legacy pw h]
    exact hguard _ rfl
  | advanced =>
    rw [noiseUpdate_advanced pw h]
    exact hguard _ rfl

end

end Sys2Proof.Machine
end

section
/-! PROOFS of the statements about invariants (10_state.md section 10): the bounds (R24 to R37, R49, R61), the ranges of
the configuration words (R21) and the floor of the estimator (R151, R160), over every step and at reset. -/

namespace Sys2Proof.Machine

/-! ## The ranges of the configuration words (R21) -/

/-- The drain takes each word from the shadow or leaves it (R238). -/
theorem drainCfg_inRange {p : Pend} {c : Cfg} (hp : p.InRange) (hc : c.InRange) : (drainCfg p c).InRange := by
  have hdrain {slot : Slot Word} {active : Word} {lo hi : F64} (hslot : F64.within (f64 slot.value) lo hi = true)
      (hactive : F64.within (f64 active) lo hi = true) : F64.within (f64 (slot.drain active)) lo hi = true := by
    unfold Slot.drain
    split
    · exact hslot
    · exact hactive
  exact ⟨hdrain hp.strength hc.strength, hdrain hp.sshape hc.sshape, hdrain hp.bshape hc.bshape,
    hdrain hp.gdepth hc.gdepth⟩

/-- The drain keeps the pending values (R238). -/
theorem Pend.clear_inRange {p : Pend} (h : p.InRange) : p.clear.InRange :=
  ⟨h.strength, h.sshape, h.bshape, h.gdepth⟩

theorem Cfg.por_inRange : Cfg.por.InRange := by constructor <;> decide +kernel

theorem Pend.por_inRange : Pend.por.InRange :=
  ⟨Cfg.por_inRange.strength, Cfg.por_inRange.sshape, Cfg.por_inRange.bshape, Cfg.por_inRange.gdepth⟩

/-- The active and the pending words are in their ranges. -/
def State.WordsInRange (s : State) : Prop := s.cfg.InRange ∧ s.pend.InRange

theorem wordsInRange_stepInvariant : StepInvariant State.WordsInRange where
  busData _ h := h
  seterr _ h := h
  pop _ h := h
  latch _ h := h
  push _ _ h := h
  pend hkeep h := ⟨h.1, hkeep h.2⟩
  accept {s l} _ _ _ h := by
    unfold State.WordsInRange
    rw [accept_cfg, accept_pend]
    exact ⟨drainCfg_inRange h.2 h.1, Pend.clear_inRange h.2⟩
  agenda _ h := h
  block {s} _ h := by
    unfold State.WordsInRange
    rw [engineBlock_cfg, engineBlock_pend]
    exact h

/-- Settles O58: a command stores only clamped words, and the drain only copies them. -/
theorem stepKeepsTheRanges : Obligations.StepKeepsTheRanges := by
  unfold Obligations.StepKeepsTheRanges
  intro s t hcfg hpend hstep
  exact wordsInRange_stepInvariant.step hstep ⟨hcfg, hpend⟩ (fun _ _ _ => ⟨hcfg, hpend⟩)
    (fun _ _ => ⟨Cfg.por_inRange, Pend.por_inRange⟩)

/-! ## The sequencer within its bounds (R24, R25) -/

/-- The bounds of the sequencer. -/
structure State.SequencerWf (P : Params) (s : State) : Prop where
  idx : s.idx < 2 * P.n
  warm : s.warm ≤ P.n
  cold : s.warm < P.n → s.idx = s.warm ∧ s.hopPhase = 0
  hopPhase : s.hopPhase < P.h

namespace State.SequencerWf

variable {P : Params}

theorem of_same {s t : State} (hst : SameSequencer s t) (h : s.SequencerWf P) : t.SequencerWf P := by
  obtain ⟨hidx, hwarm, hhop⟩ := hst
  obtain ⟨h1, h2, h3, h4⟩ := h
  constructor <;> simpa only [hidx, hwarm, hhop]

/-- The scheduler keeps the bounds: while warming `IDX` counts with `WARM`, and the phase is reduced modulo `H`. -/
theorem advance (hn : 0 < P.n) (hh : 0 < P.h) {s : State} (h : s.SequencerWf P) :
    (advanceScheduler P s).SequencerWf P := by
  have hidx : (s.idx + 1) % (2 * P.n) < 2 * P.n := Nat.mod_lt _ (by omega)
  by_cases hwarm : s.warm < P.n
  · obtain ⟨hcount, hphase⟩ := h.cold hwarm
    rw [advanceScheduler_warming hwarm, hphase, ite_self]
    refine ⟨hidx, hwarm, fun hlt => ⟨?_, rfl⟩, hh⟩
    have hlt' : s.warm + 1 < P.n := hlt
    show (s.idx + 1) % (2 * P.n) = s.warm + 1
    rw [hcount, Nat.mod_eq_of_lt (by omega)]
  · rw [advanceScheduler_primed hwarm]
    exact ⟨hidx, h.warm, fun hlt => absurd hlt hwarm, Nat.mod_lt _ hh⟩

theorem engineBlock (hn : 0 < P.n) (hh : 0 < P.h) {s : State} (h : s.SequencerWf P) :
    (engineBlock P s).SequencerWf P :=
  engineBlock_keeps_sequencer of_same (advance hn hh) h

end State.SequencerWf

/-! ## `ERR` within its nine bits (R49) -/

/-- Setting a cause keeps bits 31 to 9 clear. -/
theorem seterr_err_lt {s : State} (c : ErrCause) (h : s.err.toNat < 512) : (seterr c s).err.toNat < 512 := by
  have hbit : (errBit c).toNat < 2 ^ 9 := by cases c <;> decide
  rw [seterr_err, BitVec.toNat_or]
  exact Nat.or_lt_two_pow h hbit

theorem errClear_lt {err : Word} (v : Word) (h : err.toNat < 512) : (errClear err v).toNat < 512 := by
  rw [errClear, BitVec.toNat_and]
  exact Nat.lt_of_le_of_lt Nat.and_le_left h

/-! ## The estimator counters within their bounds (R31) -/

/-- The bounds of what a frame writes besides the memories: the estimator counters and `ERR`. -/
structure State.CountersWf (P : Params) (s : State) : Prop where
  frameCnt : s.frameCnt < 500
  subPtr : s.subPtr < P.d
  subCnt : s.subCnt < P.v
  err : s.err.toNat < 512

theorem nextPtr_lt {P : Params} {s : State} (h : s.subPtr < P.d) : nextPtr P s < P.d := by
  unfold nextPtr
  split
  · exact Nat.mod_lt _ (by omega)
  · exact h

theorem nextCnt_lt {P : Params} {s : State} (h : s.subCnt < P.v) : nextCnt P s < P.v := by
  unfold nextCnt subwindowEnds
  split
  · omega
  · rename_i hend
    simp only [decide_eq_true_eq] at hend
    omega

theorem countersWf_engineInvariant (P : Params) : EngineInvariant P (State.CountersWf P) where
  same hst h := by
    obtain ⟨h1, h2, h3, h4⟩ := h
    constructor <;> simpa only [hst.frameCnt, hst.subPtr, hst.subCnt, hst.err]
  seterr c h := ⟨h.frameCnt, h.subPtr, h.subCnt, seterr_err_lt c h.err⟩
  noise {s} pw h := by
    have herr : (noiseUpdate P pw s).err.toNat < 512 := by
      obtain he | he := noiseUpdate_err (P := P) (s := s) pw
      · rw [he]
        exact h.err
      · rw [he]
        exact seterr_err_lt _ h.err
    have hframe : (noiseUpdate P pw s).frameCnt < 500 := by
      rw [noiseUpdate_frameCnt]
      exact Nat.mod_lt _ (by decide)
    refine ⟨hframe, ?_, ?_, herr⟩
    · cases hm : s.cfg.neMethod with
      | legacy => exact (noiseUpdate_legacy_subPtr pw hm).trans_lt h.subPtr
      | advanced => exact (noiseUpdate_advanced_subPtr pw hm).trans_lt (nextPtr_lt h.subPtr)
    · cases hm : s.cfg.neMethod with
      | legacy => exact (noiseUpdate_legacy_subCnt pw hm).trans_lt h.subCnt
      | advanced => exact (noiseUpdate_advanced_subCnt pw hm).trans_lt (nextCnt_lt h.subCnt)
  smoother _ _ h := { h with }

/-! ## All bounds (R24, R25, R31, R35, R37, R49, R61, R112) -/

namespace State.Wf

variable {P : Params} {s : State}

theorem sequencer (h : State.Wf P s) : s.SequencerWf P := ⟨h.idx, h.warm, h.cold, h.hopPhase⟩

theorem counters (h : State.Wf P s) : s.CountersWf P := ⟨h.frameCnt, h.subPtr, h.subCnt, h.err⟩

/-- The phase of telemetry stays below its period over a block (R220). -/
theorem engineBlock_telemPhase (hperiod : 0 < P.telemPeriod) (h : State.Wf P s) :
    (engineBlock P s).telemPhase < P.telemPeriod := by
  obtain ⟨hoff, hon⟩ := telemetryOfABlock P s
  cases he : s.cfg.enabled with
  | false =>
    obtain ⟨hphase, -⟩ := hoff he
    exact hphase.trans_lt h.telemPhase
  | true =>
    obtain ⟨hphase, -⟩ := hon he
    exact hphase.trans_lt (Nat.mod_lt _ hperiod)

/-- A block keeps the bounds: its output words have the room the accept saw. -/
theorem block (hn : 0 < P.n) (hh : 0 < P.h) (hperiod : 0 < P.telemPeriod) (h : State.Wf P s) (hbusy : s.busy = true) :
    State.Wf P (engineBlock P s) := by
  have hseq := h.sequencer.engineBlock hn hh
  have hcount := (countersWf_engineInvariant P).block h.counters
  have hroom := h.room hbusy
  have hjob := h.job
  refine ⟨engineBlock_wf h.mem, hseq.idx, hseq.warm, hseq.cold, hseq.hopPhase, hcount.frameCnt, hcount.subPtr,
    hcount.subCnt, h.engineBlock_telemPhase hperiod, ?_, ?_, fun hb => ?_, rfl, fun _ => rfl, hcount.err⟩
  · rw [engineBlock_inFifo]
    exact h.inFifo
  · rw [engineBlock_outFifo, List.length_append, blockOutput_length]
    omega
  · rw [engineBlock_busy] at hb
    cases hb

/-- An accept keeps the bounds: the input queue gives up the job's words, and the output queue has room for them. -/
theorem accept {l : Word} (hd : 0 < P.d) (hv : 0 < P.v) (hin : l.toNat ≤ s.inFifo.length)
    (hout : l.toNat + s.outFifo.length ≤ P.outDepth) (h : State.Wf P s) : State.Wf P (accept P l s) := by
  have f := accept_frame P l s
  have hseq : (Machine.accept P l s).SequencerWf P := h.sequencer.of_same ⟨f.idx, f.warm, f.hopPhase⟩
  have hcount : (Machine.accept P l s).CountersWf P := by
    have herr := f.err.symm ▸ h.err
    obtain ⟨h1, h2, h3⟩ | ⟨h1, h2, h3⟩ := accept_counters P l s
    · exact ⟨h1.trans_lt h.frameCnt, h2.trans_lt h.subPtr, h3.trans_lt h.subCnt, herr⟩
    · exact ⟨h1.trans_lt (by decide), h2.trans_lt hd, h3.trans_lt hv, herr⟩
  refine ⟨accept_wf l h.mem, hseq.idx, hseq.warm, hseq.cold, hseq.hopPhase, hcount.frameCnt, hcount.subPtr,
    hcount.subCnt, f.telemPhase.trans_lt h.telemPhase, ?_, ?_, fun _ => ?_, ?_, fun hb => ?_, hcount.err⟩
  · rw [accept_eq]
    exact List.length_drop.trans_le ((Nat.sub_le _ _).trans h.inFifo)
  · rw [f.outFifo]
    exact h.outFifo
  · rw [f.outFifo, accept_eq]
    show s.outFifo.length + l.toNat ≤ P.outDepth
    omega
  · rw [accept_eq]
    exact List.length_take_of_le hin
  · rw [accept_eq] at hb
    cases hb

/-- After power-on reset the state is within the bounds. -/
theorem por (hn : 0 < P.n) (hh : 0 < P.h) (hd : 0 < P.d) (hv : 0 < P.v) (hperiod : 0 < P.telemPeriod) :
    State.Wf P (State.por P) :=
  ⟨Memory.por_wf P, by show 0 < _; omega, Nat.zero_le _, fun _ => ⟨rfl, rfl⟩, hh,
    Nat.zero_lt_succ 499, hd, hv, hperiod, Nat.zero_le _, Nat.zero_le _, fun hb => Bool.noConfusion hb, rfl,
    fun _ => rfl, Nat.zero_lt_succ 511⟩

end State.Wf

theorem params_n_pos : 0 < Config.params.n := by decide
theorem params_h_pos : 0 < Config.params.h := by decide
theorem params_d_pos : 0 < Config.params.d := by decide
theorem params_v_pos : 0 < Config.params.v := by decide
theorem params_telemPeriod_pos : 0 < Config.params.telemPeriod := by decide

theorem State.reset_wf : State.Wf Config.params State.reset :=
  State.Wf.por params_n_pos params_h_pos params_d_pos params_v_pos params_telemPeriod_pos

theorem wf_stepInvariant : StepInvariant (State.Wf Config.params) where
  busData _ h := { h with }
  seterr c h := { h with err := seterr_err_lt c h.err }
  pop {s w rest} hw h := by
    have hlen : rest.length + 1 = s.outFifo.length := by rw [hw, List.length_cons]
    exact { h with
      outFifo := (Nat.le_of_succ_le hlen.le).trans h.outFifo
      room := fun hb => (Nat.add_le_add_right (Nat.le_of_succ_le hlen.le) _).trans (h.room hb) }
  latch _ h := { h with }
  push {s} v hroom h := { h with
    inFifo := by
      show (s.inFifo ++ [v]).length ≤ _
      rw [List.length_append]
      exact hroom }
  pend _ h := { h with }
  accept _ hin hout h := h.accept params_d_pos params_v_pos hin hout
  agenda _ h := { h with }
  block hbusy h := h.block params_n_pos params_h_pos params_telemPeriod_pos hbusy

/-- Settles O57: what each part of a step does to the bounds. -/
theorem stepKeepsTheBounds : Obligations.StepKeepsTheBounds := by
  unfold Obligations.StepKeepsTheBounds
  intro s t h hstep
  refine wf_stepInvariant.step hstep h (fun v _ _ => ?_) (fun _ _ => ?_)
  · exact { h with err := errClear_lt v h.err }
  · exact { State.reset_wf with }

/-! ## The floor of the estimator (R151, R160) -/

theorem eps_finite : Config.params.eps.isFinite = true := by decide +kernel

theorem atLeastEps_eps : atLeastEps Config.params Config.eps := by constructor <;> decide +kernel

/-- The smaller of two floored values is floored. -/
theorem atLeastEps_min {P : Params} {a b : F64} (ha : atLeastEps P a) (hb : atLeastEps P b) :
    atLeastEps P (F64.min a b) := by
  obtain ⟨-, h⟩ | ⟨-, h⟩ := F64.min_cases a b
  · rwa [h]
  · rwa [h]

/-- Smoothed powers that passed the guard are floored. -/
theorem atLeastEps_guarded {P : Params} (heps : P.eps.isFinite = true) (raw : List F64) :
    ∀ v ∈ raw.map (guardValue P), atLeastEps P v := by
  intro v hv
  obtain ⟨x, -, rfl⟩ := List.mem_map.1 hv
  exact guardValue_spec heps x

theorem elem_mem {l : List F64} {k : Nat} (h : k < l.length) : elem l k ∈ l := by
  rw [elem, List.getD_eq_getElem _ _ h]
  exact List.getElem_mem h

/-- The floor, with the sizes of the minima and the pointer's bound, which say that the frame reads no element past an
array. -/
structure State.Floored (P : Params) (s : State) : Prop where
  floored : Memory.floored P s.mem
  rows : s.mem.submin.length = P.d
  row : ∀ row ∈ s.mem.submin, row.length = P.nb
  ptr : s.subPtr < P.d

theorem State.Wf.floored {P : Params} {s : State} (h : State.Wf P s) (hf : Memory.floored P s.mem) : s.Floored P := by
  obtain ⟨-, -, -, -, -, hrows, hrow, -, -⟩ := h.mem
  exact ⟨hf, hrows, hrow, h.subPtr⟩

/-- Replacing a row by one with a property keeps the property of all rows. -/
theorem forall_mem_set {α : Type} {p : α → Prop} {l : List α} {i : Nat} {a : α} (hl : ∀ x ∈ l, p x) (ha : p a) :
    ∀ x ∈ l.set i a, p x := by
  intro x hx
  obtain hx | rfl := List.mem_or_eq_of_mem_set hx
  · exact hl x hx
  · exact ha

/-- A row of minima: of its size, and floored. -/
def FlooredRow (P : Params) (row : List F64) : Prop := row.length = P.nb ∧ ∀ v ∈ row, atLeastEps P v

theorem advancedSig_flooredRow {P : Params} (heps : P.eps.isFinite = true) (pw : List F64) (s : State) :
    FlooredRow P (advancedSig P pw s) :=
  ⟨by simp [advancedSig], atLeastEps_guarded heps _⟩

/-- The rows an advanced frame leaves: the active one takes the smaller value bin by bin, the next one may be seeded
with the smoothed powers. -/
theorem advancedRows_flooredRow {P : Params} (heps : P.eps.isFinite = true) (pw : List F64) {s : State}
    (h : s.Floored P) : ∀ row ∈ advancedRows P pw s, FlooredRow P row := by
  obtain ⟨⟨-, hmin⟩, hrows, hrow, hptr⟩ := h
  obtain ⟨hsiglen, hsig⟩ := advancedSig_flooredRow heps pw s
  have hold : ∀ row ∈ s.mem.submin, FlooredRow P row := fun row hr => ⟨hrow row hr, hmin row hr⟩
  have hactive : s.mem.submin.getD s.subPtr [] ∈ s.mem.submin := by
    rw [List.getD_eq_getElem _ _ (by omega)]
    exact List.getElem_mem _
  have hlow : FlooredRow P (perBin P.nb fun k =>
      F64.min (subminAt s.mem.submin s.subPtr k) (elem (advancedSig P pw s) k)) := by
    refine ⟨perBin_length _ _, fun v hv => ?_⟩
    obtain ⟨k, hk, rfl⟩ := List.mem_map.1 hv
    have hk' : k < P.nb := List.mem_range.1 hk
    refine atLeastEps_min ?_ (hsig _ (elem_mem (by omega)))
    exact hmin _ hactive _ (elem_mem (by rw [hrow _ hactive]; exact hk'))
  have htracked := forall_mem_set (i := s.subPtr) hold hlow
  unfold advancedRows
  split
  · exact forall_mem_set htracked ⟨hsiglen, hsig⟩
  · exact htracked

theorem advancedRows_length (P : Params) (pw : List F64) (s : State) :
    (advancedRows P pw s).length = s.mem.submin.length := by
  unfold advancedRows trackMinima
  split <;> simp

theorem floored_engineInvariant {P : Params} (heps : P.eps.isFinite = true) : EngineInvariant P (State.Floored P) where
  same hst h := by
    obtain ⟨hsig, hmin⟩ := h.floored
    refine ⟨⟨hst.sig.symm ▸ hsig, hst.submin.symm ▸ hmin⟩, hst.submin.symm ▸ h.rows, hst.submin.symm ▸ h.row,
      hst.subPtr.symm ▸ h.ptr⟩
  seterr _ h := { h with }
  noise {s} pw h := by
    cases hm : s.cfg.neMethod with
    | legacy =>
      have hmem := noiseUpdate_legacy_mem (P := P) pw hm
      refine ⟨?_, ?_, ?_, (noiseUpdate_legacy_subPtr pw hm).trans_lt h.ptr⟩ <;> rw [hmem]
      · exact ⟨atLeastEps_guarded heps _, h.floored.2⟩
      · exact h.rows
      · exact h.row
    | advanced =>
      have hmem := noiseUpdate_advanced_mem (P := P) pw hm
      have hrows := advancedRows_flooredRow heps pw h
      refine ⟨?_, ?_, ?_, (noiseUpdate_advanced_subPtr pw hm).trans_lt (nextPtr_lt h.ptr)⟩ <;> rw [hmem]
      · exact ⟨atLeastEps_guarded heps _, fun row hr => (hrows row hr).2⟩
      · exact (advancedRows_length P pw s).trans h.rows
      · exact fun row hr => (hrows row hr).1
  smoother _ _ h := { h with }

/-- The starting constants of the reference parameters are `EPS` itself. -/
theorem por_floored : Memory.floored Config.params (Memory.por Config.params) := by
  constructor
  · intro v hv
    rw [List.eq_of_mem_replicate hv]
    exact atLeastEps_eps
  · intro row hr v hv
    rw [List.eq_of_mem_replicate hr] at hv
    rw [List.eq_of_mem_replicate hv]
    exact atLeastEps_eps

/-- The adaptive reset writes the same constants. -/
theorem resetAdaptive_floored (m : Memory) : Memory.floored Config.params (m.resetAdaptive Config.params) := por_floored

/-- The bounds and the floor together are kept; the floor alone is not, since a frame reads the row `SUB_PTR` names. -/
theorem floor_stepInvariant :
    StepInvariant (fun s => State.Wf Config.params s ∧ Memory.floored Config.params s.mem) where
  busData d h := ⟨wf_stepInvariant.busData d h.1, h.2⟩
  seterr c h := ⟨wf_stepInvariant.seterr c h.1, h.2⟩
  pop hw h := ⟨wf_stepInvariant.pop hw h.1, h.2⟩
  latch v h := ⟨wf_stepInvariant.latch v h.1, h.2⟩
  push v hroom h := ⟨wf_stepInvariant.push v hroom h.1, h.2⟩
  pend hp h := ⟨wf_stepInvariant.pend hp h.1, h.2⟩
  accept {s l} hidle hin hout h := by
    refine ⟨wf_stepInvariant.accept hidle hin hout h.1, ?_⟩
    obtain hm | hm := accept_mem Config.params l s <;> rw [hm]
    · exact h.2
    · exact resetAdaptive_floored _
  agenda a h := ⟨wf_stepInvariant.agenda a h.1, h.2⟩
  block hbusy h := ⟨wf_stepInvariant.block hbusy h.1,
    ((floored_engineInvariant eps_finite).block (h.1.floored h.2)).floored⟩

/-- Settles O59: only the guard, the smaller of two floored values and the starting constants are ever stored. -/
theorem stepKeepsTheFloor : Obligations.StepKeepsTheFloor := by
  unfold Obligations.StepKeepsTheFloor
  intro s t hwf hfloor hstep
  refine (floor_stepInvariant.step hstep ⟨hwf, hfloor⟩ (fun v _ _ => ?_) (fun _ _ => ?_)).2
  · exact ⟨{ hwf with err := errClear_lt v hwf.err }, hfloor⟩
  · exact ⟨{ State.reset_wf with }, por_floored⟩

/-! ## Reset and instantiation (R7, R300) -/

/-- The one constraint that does not evaluate is on the open `BASE`, which is a multiple of the page size (R67). -/
theorem params_valid : Config.params.valid = true := by
  unfold Params.valid
  exact Bool.and_eq_true_iff.2 ⟨by decide +kernel, decide_eq_true (Nat.mul_mod_right 4096 _)⟩

theorem instantiate_of_valid {P : Params} (h : P.valid = true) : instantiate P = .next ⟨P, h⟩ := dif_pos h

theorem instantiate_of_not_valid {P : Params} (h : P.valid = false) : instantiate P = .refused .invalidParameters :=
  dif_neg (by simp [h])

/-- Settles O60: the invariants at the power-on values, and the one check of the constraints. -/
theorem resetMeetsTheInvariants : Obligations.ResetMeetsTheInvariants := by
  unfold Obligations.ResetMeetsTheInvariants
  exact ⟨State.reset_wf, Cfg.por_inRange, Pend.por_inRange, por_floored, params_valid,
    fun P hP => instantiate_of_not_valid hP, fun P hP => ⟨⟨P, hP⟩, instantiate_of_valid hP, rfl, rfl⟩,
    ⟨Config.params, params_valid⟩, instantiate_of_valid params_valid, rfl⟩

end Sys2Proof.Machine
end

section
/-! PROOFS of the statements about the configuration commands (48_config_commands.md): what each command leaves pending
(R230 to R237, R239 to R241), the accept of a block (R100, R101, R238, R302), batches (R238) and the empty block
(R113). -/

namespace Sys2Proof.Machine

/-! ## Messages (R84) -/

theorem issueMessage_valid {α : Type} {operand : Option α} {v : α} (h : operand = some v) (put : α → Pend → Pend)
    (s : State) : issueMessage operand put s = { s with pend := put v s.pend } := by
  rw [h]
  rfl

/-- Settles O1. -/
theorem nopChangesNothing : Obligations.NopChangesNothing := fun _ _ => rfl

/-- Settles O8. -/
theorem resetCommandOnlyMarksPending : Obligations.ResetCommandOnlyMarksPending := fun _ _ => rfl

/-- Settles O2: the form `BOOL` denotes a truth value at 0 and 1, and nothing above. -/
theorem boolCommandsPendOrReject : Obligations.BoolCommandsPendOrReject := by
  unfold Obligations.BoolCommandsPendOrReject
  intro p s
  refine ⟨fun hlegal => ?_, fun hillegal => ?_⟩
  · have hv := boolOperand_legal hlegal
    exact ⟨congrArg _ (issueMessage_valid hv _ s), congrArg _ (issueMessage_valid hv _ s)⟩
  · have hnone := boolOperand_illegal hillegal
    exact ⟨congrArg _ (issueMessage_invalid hnone _ s), congrArg _ (issueMessage_invalid hnone _ s)⟩

theorem word_eq_zero_or_one {p : Word} (h : p.toNat ≤ 1) : p = 0 ∨ p = 1 := by
  bv_omega

theorem profileOperand_legal {p : Word} (h : p.toNat ≤ 1) :
    profileOperand p = some (if p = 0 then .plain else .clarity) := by
  obtain rfl | rfl := word_eq_zero_or_one h <;> rfl

theorem neMethodOperand_legal {p : Word} (h : p.toNat ≤ 1) :
    neMethodOperand p = some (if p = 0 then .legacy else .advanced) := by
  obtain rfl | rfl := word_eq_zero_or_one h <;> rfl

theorem gainLawOperand_legal {p : Word} (h : p.toNat ≤ 2) :
    gainLawOperand p = some (if p = 0 then .linear else if p = 1 then .logarithmic else .power) := by
  have hcode : p = 0 ∨ p = 1 ∨ p = 2 := by bv_omega
  obtain rfl | rfl | rfl := hcode <;> rfl

/-- Settles O3: each enumeration denotes its values at its codes, and nothing above. -/
theorem enumCommandsPendOrReject : Obligations.EnumCommandsPendOrReject := by
  unfold Obligations.EnumCommandsPendOrReject
  intro p s
  refine ⟨fun h => ⟨?_, ?_⟩, fun h => ⟨?_, ?_⟩, fun h => ?_, fun h => ?_⟩
  · exact congrArg _ (issueMessage_valid (profileOperand_legal h) _ s)
  · exact congrArg _ (issueMessage_valid (neMethodOperand_legal h) _ s)
  · exact congrArg _ (issueMessage_invalid (profileOperand_illegal h) _ s)
  · exact congrArg _ (issueMessage_invalid (neMethodOperand_illegal h) _ s)
  · exact congrArg _ (issueMessage_valid (gainLawOperand_legal h) _ s)
  · exact congrArg _ (issueMessage_invalid (gainLawOperand_illegal h) _ s)

/-! ## The form `F32` (R83, R232, R239 to R241) -/

/-- `lt` is the negation of `ge` on values that are not NaN. -/
theorem f64_lt_eq_not_ge {x y : F64} (hx : x.isNaN = false) (hy : y.isNaN = false) : F64.lt x y = !F64.ge x y := by
  rw [F64.lt_eq_rank hx hy, F64.ge_eq_rank hx hy, ← decide_not]
  exact decide_eq_decide.2 (by omega)

theorem f64_lt_eq_false_of_ge {x y : F64} (h : F64.ge x y = true) : F64.lt x y = false := by
  obtain ⟨hx, hy⟩ := F64.isNaN_of_ge h
  rw [f64_lt_eq_not_ge hx hy, h]
  rfl

/-- Two values are not each below the other. -/
theorem f64_lt_asymm {x y : F64} (h : F64.lt x y = true) : F64.lt y x = false := by
  simp only [F64.lt, Bool.and_eq_true, Bool.not_eq_true', decide_eq_true_eq] at h
  obtain ⟨⟨hx, hy⟩, hrank⟩ := h
  rw [F64.lt_eq_rank hy hx]
  exact decide_eq_false (by omega)

/-- The value of a NaN word is the NaN. -/
theorem isNaN_f64_of_isNaN32 {w : Word} (h : isNaN32 w = true) : (f64 w).isNaN = true := by
  have : f64 w = F64.nan := by
    unfold f64
    simp only [h, if_true]
  rw [this]
  decide

/-- A range given by the binary32 words of its ends. -/
structure F32Range (lo hi : F64) (wlo whi : Word) : Prop where
  lo_eq : f64 wlo = lo
  hi_eq : f64 whi = hi
  lo_num : isNaN32 wlo = false
  hi_num : isNaN32 whi = false
  le : lo.rank ≤ hi.rank

namespace F32Range

variable {lo hi : F64} {wlo whi : Word}

theorem strength : F32Range F64.zero F64.two 0x00000000 0x40000000 :=
  ⟨f64_zero, f64_two, by decide, by decide, by decide⟩

theorem sshape : F32Range (F64.neg F64.two) F64.two 0xC0000000 0x40000000 :=
  ⟨f64_neg_two, f64_two, by decide, by decide, by decide +kernel⟩

theorem unit : F32Range F64.zero F64.one 0x00000000 0x3F800000 :=
  ⟨f64_zero, f64_one, by decide, by decide, by decide⟩

/-- The one place where the four answers of the form are told apart: which of them the word's value picks. -/
theorem operand_eq (R : F32Range lo hi wlo whi) (p : Word) :
    (F64.within (f64 p) lo hi = true → f32Operand lo hi p = some p)
      ∧ (F64.lt hi (f64 p) = true → f32Operand lo hi p = some whi)
      ∧ (F64.lt (f64 p) lo = true → f32Operand lo hi p = some wlo) := by
  have hlo : lo.isNaN = false := R.lo_eq ▸ isNaN_f64 R.lo_num
  have hhi : hi.isNaN = false := R.hi_eq ▸ isNaN_f64 R.hi_num
  cases hnan : isNaN32 p with
  | true =>
    have hp := isNaN_f64_of_isNaN32 hnan
    simp [F64.within, F64.ge, F64.lt, hp]
  | false =>
    have hp := isNaN_f64 hnan
    have hle := R.le
    simp only [F64.within_iff hp hlo hhi, F64.lt_eq_rank hhi hp, F64.lt_eq_rank hp hlo, decide_eq_true_eq]
    obtain ⟨h, -⟩ | ⟨-, hin, h⟩ | ⟨-, hlow, h⟩ | ⟨-, hhigh, h⟩ :=
      f32Operand_cases R.lo_eq R.hi_eq R.lo_num R.hi_num R.le p
    · exact absurd (hnan.symm.trans h) Bool.false_ne_true
    · rw [F64.within_iff hp hlo hhi] at hin
      exact ⟨fun _ => h, fun _ => by omega, fun _ => by omega⟩
    · rw [F64.lt_eq_rank hp hlo, decide_eq_true_eq] at hlow
      exact ⟨fun _ => by omega, fun _ => by omega, fun _ => h⟩
    · rw [F64.lt_eq_rank hhi hp, decide_eq_true_eq] at hhigh
      exact ⟨fun _ => by omega, fun _ => h, fun _ => by omega⟩

/-- A command of the form `F32`: a NaN is rejected, a word in the range is stored as it is, one above or below it as
the bound it passed. -/
theorem issue (R : F32Range lo hi wlo whi) (put : Word → Pend → Pend) (p : Word) (s : State) :
    (isNaN32 p = true →
      (.next (issueMessage (f32Operand lo hi p) put s) : Result) = .next { s with err := s.err ||| 0x2 })
    ∧ (F64.within (f64 p) lo hi = true →
      (.next (issueMessage (f32Operand lo hi p) put s) : Result) = .next { s with pend := put p s.pend })
    ∧ (F64.lt hi (f64 p) = true →
      (.next (issueMessage (f32Operand lo hi p) put s) : Result) = .next { s with pend := put whi s.pend })
    ∧ (F64.lt (f64 p) lo = true →
      (.next (issueMessage (f32Operand lo hi p) put s) : Result) = .next { s with pend := put wlo s.pend }) := by
  obtain ⟨hin, habove, hbelow⟩ := R.operand_eq p
  exact ⟨fun h => congrArg _ (issueMessage_invalid (f32Operand_nan lo hi h) put s),
    fun h => congrArg _ (issueMessage_valid (hin h) put s),
    fun h => congrArg _ (issueMessage_valid (habove h) put s),
    fun h => congrArg _ (issueMessage_valid (hbelow h) put s)⟩

end F32Range

/-- Settles O4, on the range [0, 2]. -/
theorem setStrengthStoresTheClampedWord : Obligations.SetStrengthStoresTheClampedWord :=
  fun p s => F32Range.strength.issue (fun v p => { p with strength := Slot.filled v }) p s

/-- Settles O5, on the range [−2, 2]. -/
theorem setSshapeStoresTheClampedWord : Obligations.SetSshapeStoresTheClampedWord :=
  fun p s => F32Range.sshape.issue (fun v p => { p with sshape := Slot.filled v }) p s

/-- Settles O6, on the range [0, 1]. -/
theorem setBshapeStoresTheClampedWord : Obligations.SetBshapeStoresTheClampedWord :=
  fun p s => F32Range.unit.issue (fun v p => { p with bshape := Slot.filled v }) p s

/-- Settles O7, on the range [0, 1]. -/
theorem setGdepthStoresTheClampedWord : Obligations.SetGdepthStoresTheClampedWord :=
  fun p s => F32Range.unit.issue (fun v p => { p with gdepth := Slot.filled v }) p s

/-! ## The three answers to `PROCESS` (R100, R282) -/

section
variable {P : Params} {l : Word} {s : State}

theorem processCommand_of_busy (h : s.busy = true) : processCommand P l s = seterr .busyCmd s := if_pos h

theorem processCommand_of_ready (hidle : s.busy = false) (hin : l.toNat ≤ s.inFifo.length)
    (hout : l.toNat + s.outFifo.length ≤ P.outDepth) : processCommand P l s = accept P l s := by
  obtain ⟨hbusy, -⟩ | ⟨-, -, h⟩ | ⟨-, hshort, -⟩ := processCommand_cases P l s
  · exact absurd (hidle.symm.trans hbusy) Bool.false_ne_true
  · exact h
  · omega

theorem processCommand_of_short (hidle : s.busy = false)
    (hshort : s.inFifo.length < l.toNat ∨ P.outDepth < l.toNat + s.outFifo.length) :
    processCommand P l s = seterr .procReject s := by
  obtain ⟨hbusy, -⟩ | ⟨-, hready, -⟩ | ⟨-, -, h⟩ := processCommand_cases P l s
  · exact absurd (hidle.symm.trans hbusy) Bool.false_ne_true
  · omega
  · exact h

theorem issueInstr_process : issueInstr P (.process l) s = .next (processCommand P l s) := rfl

theorem exec_process : exec (.process l) s = .next (processCommand Config.params l s) := rfl

theorem drainPending_of_reset (h : s.pend.resetPending = true) :
    drainPending P s = resetAdaptive P { s with cfg := drainCfg s.pend s.cfg, pend := s.pend.clear } := if_pos h

theorem drainPending_of_no_reset (h : s.pend.resetPending = false) :
    drainPending P s = { s with cfg := drainCfg s.pend s.cfg, pend := s.pend.clear } :=
  if_neg (by rw [h]; exact Bool.false_ne_true)

end

/-- Settles O13: `PROCESS` has three answers, and the depth is the parameters' own. -/
theorem processTurnedAwayOnlySetsItsError : Obligations.ProcessTurnedAwayOnlySetsItsError := by
  unfold Obligations.ProcessTurnedAwayOnlySetsItsError
  intro l s
  refine ⟨fun hbusy => ?_, fun hidle hshort => ?_, fun P => ⟨fun hbusy => ?_, fun hidle hshort => ?_,
    fun hidle hin hout => ?_⟩⟩
  · rw [exec_process, processCommand_of_busy hbusy]
    rfl
  · rw [exec_process, processCommand_of_short hidle hshort]
    rfl
  · rw [issueInstr_process, processCommand_of_busy hbusy]
    rfl
  · rw [issueInstr_process, processCommand_of_short hidle hshort]
    rfl
  · rw [issueInstr_process, processCommand_of_ready hidle hin hout]

/-- Settles O11: the accept with the drain written out. -/
theorem processAcceptDrainsAndTakesSamples : Obligations.ProcessAcceptDrainsAndTakesSamples := by
  unfold Obligations.ProcessAcceptDrainsAndTakesSamples
  intro l s hidle hin hout hreset
  rw [exec_process, processCommand_of_ready hidle hin hout, accept_eq, drainPending_of_no_reset hreset]
  rfl

/-- The hold times of the reference parameters. -/
theorem holdSamples_reference (p : Profile) :
    Config.params.holdSamples p = if p = .plain then 9600 else 4800 := by
  cases p <;> rfl

/-- Settles O12: the accept with the drain and the starting constants written out. -/
theorem processAcceptAppliesPendingReset : Obligations.ProcessAcceptAppliesPendingReset := by
  unfold Obligations.ProcessAcceptAppliesPendingReset
  intro l s hidle hin hout hreset
  rw [exec_process, processCommand_of_ready hidle hin hout, accept_eq, drainPending_of_reset hreset,
    ← holdSamples_reference]
  rfl

/-! ## Batches (R238) -/

/-- A slot after a command that issues a value for it, or none. -/
def Slot.put {α : Type} (slot : Slot α) : Option α → Slot α
  | some v => Slot.filled v
  | none => slot

/-- The shadow after a configuration command: each field takes the value the command issues for it. -/
def Pend.take (p : Pend) (values : Issued) (reset : Bool) : Pend where
  enabled := p.enabled.put values.enabled
  strength := p.strength.put values.strength
  profile := p.profile.put values.profile
  neMethod := p.neMethod.put values.neMethod
  gainLaw := p.gainLaw.put values.gainLaw
  smoother := p.smoother.put values.smoother
  sshape := p.sshape.put values.sshape
  bshape := p.bshape.put values.bshape
  gdepth := p.gdepth.put values.gdepth
  resetPending := reset || p.resetPending

/-- `ERR` after commands that are all valid messages, or not. -/
def errAfter (valid : Bool) (err : Word) : Word := if valid then err else err ||| 0x2

theorem errAfter_and (a b : Bool) (err : Word) : errAfter b (errAfter a err) = errAfter (a && b) err := by
  cases a <;> cases b <;> simp [errAfter, BitVec.or_assoc]

/-- A message changes one field of the shadow, or `ERR`, by whether its payload denotes a value. -/
theorem issueMessage_eq {α : Type} {operand : Option α} {put : α → Pend → Pend} {s : State} {valid : Bool}
    (field : Option α → Issued) (hvalid : operand.isSome = valid)
    (hsome : ∀ v, put v s.pend = s.pend.take (field (some v)) false) (hnone : s.pend.take (field none) false = s.pend) :
    (.next (issueMessage operand put s) : Result)
      = .next { s with pend := s.pend.take (field operand) false, err := errAfter valid s.err } := by
  subst hvalid
  cases operand with
  | none =>
    rw [hnone]
    rfl
  | some v =>
    rw [← hsome v]
    rfl

theorem boolOperand_isSome (p : Word) : (boolOperand p).isSome = PayloadForm.bool.legal p := by
  by_cases h : p.toNat ≤ 1
  · simp [boolOperand_legal h, PayloadForm.legal, h]
  · simp [boolOperand_illegal (not_le.1 h), PayloadForm.legal, h]

theorem profileOperand_isSome (p : Word) : (profileOperand p).isSome = (PayloadForm.enum 2).legal p := by
  by_cases h : p.toNat ≤ 1
  · simp [profileOperand_legal h, PayloadForm.legal, Nat.lt_succ_of_le h]
  · simp [profileOperand_illegal (not_le.1 h), PayloadForm.legal, not_le.1 h]

theorem neMethodOperand_isSome (p : Word) : (neMethodOperand p).isSome = (PayloadForm.enum 2).legal p := by
  by_cases h : p.toNat ≤ 1
  · simp [neMethodOperand_legal h, PayloadForm.legal, Nat.lt_succ_of_le h]
  · simp [neMethodOperand_illegal (not_le.1 h), PayloadForm.legal, not_le.1 h]

theorem gainLawOperand_isSome (p : Word) : (gainLawOperand p).isSome = (PayloadForm.enum 3).legal p := by
  by_cases h : p.toNat ≤ 2
  · simp [gainLawOperand_legal h, PayloadForm.legal, Nat.lt_succ_of_le h]
  · simp [gainLawOperand_illegal (not_le.1 h), PayloadForm.legal, Nat.succ_le_of_lt (not_le.1 h)]

theorem f32Operand_isSome (lo hi : F64) (p : Word) : (f32Operand lo hi p).isSome = PayloadForm.f32.legal p := by
  unfold f32Operand PayloadForm.legal
  cases isNaN32 p <;> rfl

/-- A configuration command, whatever it is: the shadow takes what it issues, `ERR` takes `BAD_VALUE` if it is no valid
message, and nothing else changes. -/
theorem exec_configuration {i : Instr} (hi : isConfiguration i = true) (s : State) :
    exec i s = .next { s with
      pend := s.pend.take (issued i) (isReset i), err := errAfter i.wellFormed s.err } := by
  cases i with
  | nop p => rfl
  | reset p => rfl
  | process l => cases hi
  | setEnabled p =>
    exact issueMessage_eq (fun o => { Issued.nothing with enabled := o }) (boolOperand_isSome p) (fun _ => rfl) rfl
  | setStrength p =>
    exact issueMessage_eq (fun o => { Issued.nothing with strength := o }) (f32Operand_isSome _ _ p) (fun _ => rfl) rfl
  | setProfile p =>
    exact issueMessage_eq (fun o => { Issued.nothing with profile := o }) (profileOperand_isSome p) (fun _ => rfl) rfl
  | setNemethod p =>
    exact issueMessage_eq (fun o => { Issued.nothing with neMethod := o }) (neMethodOperand_isSome p) (fun _ => rfl) rfl
  | setGainlaw p =>
    exact issueMessage_eq (fun o => { Issued.nothing with gainLaw := o }) (gainLawOperand_isSome p) (fun _ => rfl) rfl
  | setSmoother p =>
    exact issueMessage_eq (fun o => { Issued.nothing with smoother := o }) (boolOperand_isSome p) (fun _ => rfl) rfl
  | setSshape p =>
    exact issueMessage_eq (fun o => { Issued.nothing with sshape := o }) (f32Operand_isSome _ _ p) (fun _ => rfl) rfl
  | setBshape p =>
    exact issueMessage_eq (fun o => { Issued.nothing with bshape := o }) (f32Operand_isSome _ _ p) (fun _ => rfl) rfl
  | setGdepth p =>
    exact issueMessage_eq (fun o => { Issued.nothing with gdepth := o }) (f32Operand_isSome _ _ p) (fun _ => rfl) rfl

/-- One field of the shadow after a batch. -/
def Slot.batch {α : Type} (field : Issued → Option α) (batch : List Instr) (slot : Slot α) : Slot α :=
  batch.foldl (fun slot i => slot.put (field (issued i))) slot

/-- The shadow after a batch. -/
def Pend.batch (batch : List Instr) (p : Pend) : Pend where
  enabled := p.enabled.batch Issued.enabled batch
  strength := p.strength.batch Issued.strength batch
  profile := p.profile.batch Issued.profile batch
  neMethod := p.neMethod.batch Issued.neMethod batch
  gainLaw := p.gainLaw.batch Issued.gainLaw batch
  smoother := p.smoother.batch Issued.smoother batch
  sshape := p.sshape.batch Issued.sshape batch
  bshape := p.bshape.batch Issued.bshape batch
  gdepth := p.gdepth.batch Issued.gdepth batch
  resetPending := batch.any isReset || p.resetPending

theorem Pend.batch_cons (i : Instr) (batch : List Instr) (p : Pend) :
    Pend.batch (i :: batch) p = Pend.batch batch (p.take (issued i) (isReset i)) := by
  have hreset : (isReset i || batch.any isReset || p.resetPending)
      = (batch.any isReset || (isReset i || p.resetPending)) := by
    rw [Bool.or_comm (isReset i), Bool.or_assoc]
  unfold Pend.batch
  rw [List.any_cons, hreset]
  rfl

/-- A batch issued whole: every command completes, and only the shadow and `ERR` change. -/
theorem issueAll_configuration (batch : List Instr) (hall : batch.all isConfiguration = true) (s : State) :
    issueAll batch s = .next { s with
      pend := Pend.batch batch s.pend, err := errAfter (batch.all Instr.wellFormed) s.err } := by
  induction batch generalizing s with
  | nil => rfl
  | cons i batch ih =>
    rw [List.all_cons, Bool.and_eq_true] at hall
    obtain ⟨hi, hrest⟩ := hall
    rw [issueAll, exec_configuration hi, Pend.batch_cons, List.all_cons, ← errAfter_and]
    exact ih hrest _

/-- The last writer of a field wins: what the drain makes of the field after a batch. -/
theorem Slot.batch_drain {α : Type} (field : Issued → Option α) (batch : List Instr) (slot : Slot α) (active : α) :
    (slot.batch field batch).drain active = lastIssued field batch (slot.drain active) := by
  induction batch generalizing slot with
  | nil => rfl
  | cons i batch ih =>
    have hput : (slot.put (field (issued i))).drain active = (field (issued i)).getD (slot.drain active) := by
      cases field (issued i) <;> rfl
    have hlast : lastIssued field (i :: batch) (slot.drain active)
        = lastIssued field batch ((field (issued i)).getD (slot.drain active)) := by
      unfold lastIssued
      rw [List.reverse_cons, List.findSome?_append, Option.getD_or, List.findSome?_singleton]
    rw [hlast, ← hput]
    exact ih _

theorem Slot.drain_of_invalid {α : Type} {slot : Slot α} (h : slot.valid = false) (active : α) :
    slot.drain active = active := if_neg (by rw [h]; exact Bool.false_ne_true)

/-- What the drain makes of the configuration after a batch that found nothing pending. -/
theorem drainCfg_batch {p : Pend} (h : p.isEmpty = true) (batch : List Instr) (c : Cfg) :
    drainCfg (Pend.batch batch p) c = {
      enabled := lastIssued Issued.enabled batch c.enabled
      strength := lastIssued Issued.strength batch c.strength
      profile := lastIssued Issued.profile batch c.profile
      neMethod := lastIssued Issued.neMethod batch c.neMethod
      gainLaw := lastIssued Issued.gainLaw batch c.gainLaw
      smoother := lastIssued Issued.smoother batch c.smoother
      sshape := lastIssued Issued.sshape batch c.sshape
      bshape := lastIssued Issued.bshape batch c.bshape
      gdepth := lastIssued Issued.gdepth batch c.gdepth } := by
  simp only [Pend.isEmpty, Bool.and_eq_true, Bool.not_eq_true'] at h
  obtain ⟨⟨⟨⟨⟨⟨⟨⟨⟨h1, h2⟩, h3⟩, h4⟩, h5⟩, h6⟩, h7⟩, h8⟩, h9⟩, -⟩ := h
  simp only [drainCfg, Pend.batch, Slot.batch_drain, Slot.drain_of_invalid, h1, h2, h3, h4, h5, h6, h7, h8, h9]

theorem Pend.batch_resetPending {p : Pend} (h : p.isEmpty = true) (batch : List Instr) :
    (Pend.batch batch p).resetPending = batch.any isReset := by
  simp only [Pend.isEmpty, Bool.and_eq_true, Bool.not_eq_true'] at h
  show (batch.any isReset || p.resetPending) = _
  rw [h.2, Bool.or_false]

/-- The accept of an empty block takes no word. -/
theorem accept_zero (P : Params) (s : State) :
    accept P 0 s = { drainPending P s with jobL := 0, jobX := [], busy := true } := by
  have hin : (drainPending P s).inFifo = s.inFifo := by
    obtain ⟨-, h⟩ | ⟨-, h⟩ := drainPending_cases P s <;> rw [h]
    rfl
  rw [accept_eq, ← hin]
  rfl

theorem exec_process_zero {s : State} (hidle : s.busy = false) (hroom : s.outFifo.length ≤ 4096) :
    exec (.process 0) s
      = .next { drainPending Config.params s with jobL := 0, jobX := [], busy := true } := by
  have hready : processCommand Config.params 0 s = accept Config.params 0 s :=
    processCommand_of_ready hidle (Nat.zero_le _) ((Nat.zero_add _).trans_le hroom)
  rw [exec_process, hready, accept_zero]

/-- Settles O10: the batch issued, then drained field by field, and the reset applied to the result. -/
theorem batchAppliesLastWriterThenReset : Obligations.BatchAppliesLastWriterThenReset := by
  unfold Obligations.BatchAppliesLastWriterThenReset
  intro batch s hall hidle hroom hempty
  refine ⟨_, _, issueAll_configuration batch hall s, rfl, rfl, exec_process_zero hidle hroom, ?_⟩
  cases hreset : batch.any isReset with
  | false =>
    rw [drainPending_of_no_reset ((Pend.batch_resetPending hempty batch).trans hreset), drainCfg_batch hempty]
    exact ⟨rfl, rfl⟩
  | true =>
    rw [drainPending_of_reset ((Pend.batch_resetPending hempty batch).trans hreset), drainCfg_batch hempty]
    exact ⟨rfl, rfl⟩

end Sys2Proof.Machine
end

section
/-! PROOFS of the statements about the gate and the output stage (47_gate_output.md): the gate over a block (R211), the
multiplier at depth 0 (R213), the limiter (R215); the empty block (R113); the ranges of the gains (R176, R177). -/

namespace Sys2Proof.Machine

/-! ## The gate over a block (R211) -/

theorem telemetryUpdate_gate (P : Params) (s : State) :
    (telemetryUpdate P s).gateOpen = s.gateOpen ∧ (telemetryUpdate P s).hold = s.hold
      ∧ (telemetryUpdate P s).gateMult = s.gateMult := by
  obtain ⟨-, h⟩ | ⟨-, -, h⟩ | ⟨-, -, h⟩ := telemetryUpdate_cases P s <;> rw [h] <;> exact ⟨rfl, rfl, rfl⟩

/-- The gate's flag and `HOLD` after a block are those of its transition. -/
theorem engineBlock_gate (P : Params) (s : State) :
    (engineBlock P s).gateOpen = (gateBlockUpdate P s.jobL s).gateOpen
      ∧ (engineBlock P s).hold = (gateBlockUpdate P s.jobL s).hold := by
  have hsamples : SampleFrame (gateBlockUpdate P s.jobL s) (samplesDone P s) := runSamples_sampleFrame P _ _
  obtain ⟨hopen, hhold, -⟩ := telemetryUpdate_gate P (samplesDone P s)
  exact ⟨hopen.trans hsamples.gateOpen, hhold.trans hsamples.hold⟩

/-- `HOLD` reaches 0 exactly where the block is as long as it, or longer. -/
theorem holdAfter_eq_zero_iff (hold l : Word) : holdAfter hold l = 0 ↔ ¬ l.toNat < hold.toNat := by
  rw [BitVec.toNat_eq, holdAfter_toNat]
  show hold.toNat - l.toNat = 0 ↔ _
  omega

/-- Settles O49: the two cases of the transition. -/
theorem gateTransitionOfABlock : Obligations.GateTransitionOfABlock := by
  unfold Obligations.GateTransitionOfABlock
  intro P s
  obtain ⟨hopen, hhold⟩ := engineBlock_gate P s
  have hthr : F64.sub P.baseThr (F64.mul P.thrK (effect s.cfg)) = threshold P s.cfg := rfl
  dsimp only
  rw [hopen, hhold, hthr]
  obtain ⟨hlow, h⟩ | ⟨hhigh, h⟩ := gateBlockUpdate_cases P s.jobL s
  · simp [hlow, h]
  · simp only [hhigh, h, Bool.false_eq_true, false_implies, true_implies, true_and, holdAfter_toNat,
      holdAfter_eq_zero_iff]
    by_cases hlt : s.jobL.toNat < s.hold.toNat <;> simp [hlt]

/-! ## The empty block (R113) -/

/-- A block without samples is the gate transition and the telemetry update. -/
theorem engineBlock_empty {P : Params} {s : State} (h : s.jobX = []) :
    engineBlock P s = complete [] (telemetryUpdate P (gateBlockUpdate P s.jobL s)) := by
  unfold engineBlock
  rw [h]
  rfl

/-- An empty block writes no sample, ring or sequencer, nor `ERR` or the gate multiplier. -/
theorem engineBlock_empty_keeps {P : Params} {s : State} (h : s.jobX = []) :
    (engineBlock P s).mem = s.mem ∧ SameSequencer s (engineBlock P s)
      ∧ (engineBlock P s).gateMult = s.gateMult ∧ (engineBlock P s).err = s.err := by
  rw [engineBlock_empty h]
  have htelem (t : State) : (telemetryUpdate P t).mem = t.mem ∧ SameSequencer t (telemetryUpdate P t)
      ∧ (telemetryUpdate P t).gateMult = t.gateMult ∧ (telemetryUpdate P t).err = t.err :=
    ⟨telemetryUpdate_mem P t, telemetryUpdate_sequencer P t, (telemetryUpdate_gate P t).2.2,
      (telemetryUpdate_estimator P t).err⟩
  obtain ⟨hmem, ⟨hidx, hwarm, hhop⟩, hmult, herr⟩ := htelem (gateBlockUpdate P s.jobL s)
  have hgate : (gateBlockUpdate P s.jobL s).gateMult = s.gateMult := by
    obtain ⟨-, hg⟩ | ⟨-, hg⟩ := gateBlockUpdate_cases P s.jobL s <;> rw [hg]
  obtain ⟨hidx', hwarm', hhop'⟩ := gateBlockUpdate_sequencer P s.jobL s
  exact ⟨hmem.trans (gateBlockUpdate_mem P _ s), ⟨hidx.trans hidx', hwarm.trans hwarm', hhop.trans hhop'⟩,
    hmult.trans hgate, herr.trans (gateBlockUpdate_estimator P _ s).err⟩

theorem engineTurn_busy {P : Params} {s : State} (h : s.busy = true) : engineTurn P s = engineBlock P s := if_pos h

/-- An idle machine with no reset pending once it has accepted an empty block. -/
def acceptedEmpty (s : State) : State :=
  { s with cfg := drainCfg s.pend s.cfg, pend := s.pend.clear, jobL := 0, jobX := [], busy := true }

theorem exec_process_zero_no_reset {s : State} (hidle : s.busy = false) (hroom : s.outFifo.length ≤ 4096)
    (hreset : s.pend.resetPending = false) : exec (.process 0) s = .next (acceptedEmpty s) := by
  rw [exec_process_zero hidle hroom, drainPending_of_no_reset hreset]
  rfl

/-- Settles O14: the accept of an empty block, then the block. -/
theorem processZeroTouchesNoSample : Obligations.ProcessZeroTouchesNoSample := by
  unfold Obligations.ProcessZeroTouchesNoSample
  intro s hidle hroom hreset
  refine ⟨acceptedEmpty s, exec_process_zero_no_reset hidle hroom hreset, rfl, ?_⟩
  rw [engineTurn_busy rfl]
  obtain ⟨hmem, ⟨hidx, hwarm, hhop⟩, hmult, herr⟩ :=
    engineBlock_empty_keeps (P := Config.params) (s := acceptedEmpty s) rfl
  obtain ⟨hlow, hhigh⟩ := gateTransitionOfABlock Config.params (acceptedEmpty s)
  obtain ⟨hoff, hon⟩ := telemetryOfABlock Config.params (acceptedEmpty s)
  have hout : (engineBlock Config.params (acceptedEmpty s)).outFifo = s.outFifo := by
    have hnone : blockOutput Config.params (acceptedEmpty s) = [] :=
      List.eq_nil_of_length_eq_zero (blockOutput_length _ _)
    rw [engineBlock_outFifo, hnone, List.append_nil]
    rfl
  refine ⟨rfl, engineBlock_cfg _ _, engineBlock_inFifo _ _, hout, hmem, hidx, hwarm, hhop, hmult, herr,
    fun h => ?_, fun h => ?_, ?_⟩
  · obtain ⟨hopen, hhold⟩ := hlow h
    exact ⟨hopen, hhold.trans (holdSamples_reference _)⟩
  · obtain ⟨hhold, hopen⟩ := hhigh h
    have hpos : (0 : Word).toNat < s.hold.toNat ↔ s.hold ≠ 0 := by
      rw [Ne, BitVec.toNat_eq]
      exact Nat.pos_iff_ne_zero
    refine ⟨BitVec.eq_of_toNat_eq hhold, hopen.trans ?_⟩
    exact congrArg (s.gateOpen && ·) (decide_eq_decide.2 hpos)
  · cases he : (acceptedEmpty s).cfg.enabled with
    | false =>
      obtain ⟨hphase, -⟩ := hoff he
      exact hphase
    | true =>
      obtain ⟨hphase, -⟩ := hon he
      exact hphase

/-! ## The multiplier at depth 0 (R213) -/

/-- With depth 0 the target is 1.0 whether the gate is open or closed, so a multiplier at 1.0 does not move. -/
theorem gateMultNext_depth_zero {c : Cfg} (h : c.gdepth = 0x00000000 ∨ c.gdepth = 0x80000000) (gateOpen : Bool) :
    gateMultNext Config.params c gateOpen F64.one = F64.one := by
  have htarget : gateTarget Config.params c gateOpen = F64.one := by
    unfold gateTarget
    cases gateOpen with
    | true => rfl
    | false => obtain h | h := h <;> rw [h] <;> cases c.profile <;> decide +kernel
  unfold gateMultNext gateCoef
  rw [htarget]
  cases gateOpen with
  | true =>
    show F64.add F64.one (F64.mul Config.params.attack (F64.sub F64.one F64.one)) = F64.one
    decide +kernel
  | false => cases c.profile <;> decide +kernel

/-- A sample step moves the multiplier by its one-pole step only. -/
theorem sampleStep_gateMult (P : Params) (x : Word) (s : State) :
    (sampleStep P x s).1.gateMult = gateMultNext P s.cfg s.gateOpen s.gateMult := by
  have hinput : (sampleInput P x s).gateMult = s.gateMult := by
    have hadvance : (advanceScheduler P (inWrite P s.idx x s)).gateMult = s.gateMult := by
      unfold advanceScheduler
      split <;> rfl
    unfold sampleInput
    dsimp only
    split
    · exact (frame_frame P _ _ _).gateMult.trans hadvance
    · exact hadvance
  have hframe := sampleInput_sampleFrame P x s
  refine (selectOutput_frame P x s.warm s.idx _ _).gateMult.trans ?_
  rw [outWrite_gateMult, gateMultStep_gateMult, hinput, hframe.cfg, hframe.gateOpen]

theorem runSamples_gateMult_one (xs : List Word) {s : State}
    (h : s.cfg.gdepth = 0x00000000 ∨ s.cfg.gdepth = 0x80000000) (hone : s.gateMult = F64.one) :
    (runSamples Config.params xs s).1.gateMult = F64.one := by
  induction xs generalizing s with
  | nil => exact hone
  | cons x xs ih =>
    refine ih (s := (sampleStep Config.params x s).1) ?_ ?_
    · rwa [(sampleStep_sampleFrame Config.params x s).cfg]
    · rw [sampleStep_gateMult, hone, gateMultNext_depth_zero h]

/-- Settles O50: the samples leave the multiplier, and the rest of the block does not write it. -/
theorem gateStaysAtOneWithDepthZero : Obligations.GateStaysAtOneWithDepthZero := by
  unfold Obligations.GateStaysAtOneWithDepthZero
  intro s hbusy hagenda hdepth hone
  refine ⟨engineBlock Config.params s, by rw [step_engine s hagenda, engineTurn_busy hbusy], ?_⟩
  obtain ⟨-, -, htelem⟩ := telemetryUpdate_gate Config.params (samplesDone Config.params s)
  refine htelem.trans (runSamples_gateMult_one _ ?_ ?_)
  · rwa [gateBlockUpdate_cfg]
  · obtain ⟨-, h⟩ | ⟨-, h⟩ := gateBlockUpdate_cases Config.params s.jobL s <;> rwa [h]

end Sys2Proof.Machine
end

section
/-! PROOFS of the statements about the limiter (47_gate_output.md, R215) and the ranges of the gains (44_gain.md, R176,
R177), from the signs and zeros of binary64 arithmetic (R10). -/

namespace Sys2Proof

/-! ## Signs (R10) -/

theorem F64.mag_lt (x : F64) : x.mag < 2 ^ 63 := Nat.mod_lt _ (by decide)

/-- The sign operations on the word with a sign and a magnitude that is no NaN. -/
theorem F64.neg_ofSignMag (neg : Bool) {m : Nat} (h : m ≤ F64.infMag) :
    F64.neg (F64.ofSignMag neg m) = F64.ofSignMag (!neg) m := by
  have hm : m < 2 ^ 63 := h.trans_lt (by decide)
  have hnum : (F64.ofSignMag neg m).isNaN = false := by
    unfold F64.isNaN
    rw [F64.mag_ofSignMag neg hm]
    exact decide_eq_false (not_lt.2 h)
  unfold F64.neg
  rw [hnum, F64.isNeg_ofSignMag neg hm, F64.mag_ofSignMag neg hm]
  rfl

theorem F64.neg_eq {x : F64} (h : x.isNaN = false) : F64.neg x = F64.ofSignMag (!x.isNeg) x.mag := by
  unfold F64.neg
  rw [h]
  rfl

theorem F64.abs_eq {x : F64} (h : x.isNaN = false) : F64.abs x = F64.ofSignMag false x.mag := by
  unfold F64.abs
  rw [h]
  rfl

section
variable {x : F64}

@[simp] theorem F64.mag_neg (h : x.isNaN = false) : (F64.neg x).mag = x.mag := by
  rw [F64.neg_eq h, F64.mag_ofSignMag _ x.mag_lt]

@[simp] theorem F64.isNeg_neg (h : x.isNaN = false) : (F64.neg x).isNeg = !x.isNeg := by
  rw [F64.neg_eq h, F64.isNeg_ofSignMag _ x.mag_lt]

theorem F64.isNaN_neg (h : x.isNaN = false) : (F64.neg x).isNaN = false := by
  unfold F64.isNaN
  rw [F64.mag_neg h]
  exact h

theorem F64.abs_neg (h : x.isNaN = false) : F64.abs (F64.neg x) = F64.abs x := by
  rw [F64.abs_eq (F64.isNaN_neg h), F64.abs_eq h, F64.mag_neg h]

end

theorem F64.neg_nan : F64.neg F64.nan = F64.nan := by decide +kernel

theorem F64.neg_inf (neg : Bool) : F64.neg (F64.inf neg) = F64.inf (!neg) := F64.neg_ofSignMag neg le_rfl

/-- Rounding is symmetric in the sign. -/
theorem F64.neg_round (neg : Bool) (n d : Nat) : F64.neg (F64.round neg n d) = F64.round (!neg) n d := by
  unfold F64.round
  exact F64.neg_ofSignMag neg (Nat.min_le_right _ _)

/-- Changing the sign of a finite factor changes that of the product. -/
theorem F64.neg_mul {x y : F64} {neg : Bool} {u : Nat} (hx : x.val = .fin neg u) (hy : y.val = .fin (!neg) u)
    (z : F64) : F64.neg (F64.mul x z) = F64.mul y z := by
  have hsign (b : Bool) : ((!neg) != b) = !(neg != b) := by cases neg <;> cases b <;> rfl
  unfold F64.mul
  rw [hx, hy]
  cases z.val with
  | nan => exact F64.neg_nan
  | inf b =>
    dsimp only
    split
    · exact F64.neg_nan
    · rw [hsign]
      exact F64.neg_inf _
  | fin b n =>
    dsimp only
    rw [hsign]
    exact F64.neg_round _ _ _

namespace Machine

/-! ## The limiter (R215) -/

theorem limiter_of_small {v : F64} (h : F64.lt (F64.lit 9 1) v.abs = false) : limiter v = v :=
  if_neg (by rw [h]; exact Bool.false_ne_true)

theorem limiter_of_large {v : F64} (h : F64.lt (F64.lit 9 1) v.abs = true) :
    limiter v = F64.mul v.sign
      (F64.add (F64.lit 9 1) (F64.mul (F64.sub v.abs (F64.lit 9 1)) (F64.lit 3 1))) := if_pos h

/-- The sign factor of the negated value is the negated one, and so is its product with anything. -/
theorem mul_sign_neg {v : F64} (h : v.isNaN = false) (z : F64) :
    F64.mul (F64.neg v).sign z = F64.neg (F64.mul v.sign z) := by
  have hone : F64.one.val = .fin false (2 ^ 1074) := by decide +kernel
  have hneg : (F64.neg F64.one).val = .fin true (2 ^ 1074) := by decide +kernel
  unfold F64.sign
  rw [F64.isNeg_neg h]
  cases v.isNeg with
  | false => exact (F64.neg_mul hone hneg z).symm
  | true => exact (F64.neg_mul hneg hone z).symm

/-- Settles O51: the branch of the limiter looks at the magnitude only, and the sign is a factor of the result. -/
theorem limiterPassesSmallValuesAndIsOdd : Obligations.LimiterPassesSmallValuesAndIsOdd := by
  unfold Obligations.LimiterPassesSmallValuesAndIsOdd
  intro v hv
  refine ⟨fun h => limiter_of_small (f64_lt_eq_false_of_ge h), fun h => ?_, ?_⟩
  · rw [limiter_of_large h]
    unfold F64.sign
    rfl
  · have habs := F64.abs_neg hv
    cases h : F64.lt (F64.lit 9 1) v.abs with
    | false => rw [limiter_of_small (habs.symm ▸ h), limiter_of_small h]
    | true => rw [limiter_of_large (habs.symm ▸ h), limiter_of_large h, habs, mul_sign_neg hv]

/-! ## The ranges of the gains (R176, R177) -/

theorem within_clamp {x lo hi : F64} (hx : x.isNaN = false) (h : F64.ge hi lo = true) :
    F64.within (F64.clamp x lo hi) lo hi = true := by
  obtain ⟨hhi, hlo⟩ := F64.isNaN_of_ge h
  rw [F64.ge_eq_rank hhi hlo, decide_eq_true_eq] at h
  obtain ⟨hin, hc⟩ | ⟨-, hc⟩ | ⟨-, hc⟩ := F64.clamp_cases hx hlo hhi h <;> rw [hc]
  · exact hin
  · exact within_left hlo hhi h
  · exact within_right hlo hhi h

/-- A zero of either sign. -/
def IsZero (x : F64) : Prop := ∃ neg, x = F64.ofSignMag neg 0

theorem roundMag_zero (p d : Nat) : roundMag p 0 d = 0 := by
  simp [roundMag]

/-- A zero times a finite value is a zero. -/
theorem isZero_mul {x y : F64} (hx : IsZero x) (hy : y.isFinite = true) : IsZero (F64.mul x y) := by
  obtain ⟨neg, rfl⟩ := hx
  have hval : (F64.ofSignMag neg 0).val = .fin neg 0 := by cases neg <;> decide +kernel
  have hfin : ∃ b n, y.val = .fin b n := by
    unfold F64.val
    rw [F64.isNaN_of_isFinite hy, hy]
    simp only [Bool.false_eq_true, if_false, if_true]
    split <;> exact ⟨_, _, rfl⟩
  obtain ⟨b, n, hn⟩ := hfin
  refine ⟨neg != b, ?_⟩
  unfold F64.mul F64.round
  rw [hval, hn]
  dsimp only
  rw [Nat.zero_mul, roundMag_zero 53 (2 ^ 1074)]
  rfl

/-- With a strength word of either zero the effect amount is a zero (R13). -/
theorem isZero_effect {c : Cfg} (h : c.strength = 0x00000000 ∨ c.strength = 0x80000000) : IsZero (effect c) := by
  unfold effect
  obtain h | h := h <;> rw [h]
  · exact ⟨false, by decide +kernel⟩
  · exact ⟨true, by decide +kernel⟩

theorem f64_one_sub_zero {x : F64} (h : IsZero x) : F64.sub F64.one x = F64.one := by
  obtain ⟨neg, rfl⟩ := h
  cases neg <;> decide +kernel

theorem f64_one_add_zero {x : F64} (h : IsZero x) : F64.add F64.one x = F64.one := by
  obtain ⟨neg, rfl⟩ := h
  cases neg <;> decide +kernel

/-- Settles O48: the clamp of a number is in the range; at strength 0 the blend is 1.0 and a zero. -/
theorem gainsStayInTheirRange : Obligations.GainsStayInTheirRange := by
  unfold Obligations.GainsStayInTheirRange
  refine ⟨fun c prev g hnum hfloor => within_clamp hnum hfloor, fun c gs hstrength hfinite => ?_⟩
  have heffect := isZero_effect hstrength
  rw [blendedGain, f64_one_sub_zero heffect, f64_one_add_zero (isZero_mul heffect hfinite)]

end Machine

end Sys2Proof
end

section
/-! PROOFS of the statements about host accesses (10_state.md section 11, 20_memory.md, 49_host_registers.md): reads and
writes without effect (R66, R261), `ERR` (R262), pops (R265), what the registers show (R46 to R54), and the window
(R67). -/

namespace Sys2Proof.Machine

/-! ## Reads and writes without effect (R66, R261) -/

/-- A good read of any register but `OUT_DATA` leaves the state. -/
theorem memRead_keeps (P : Params) {o : BitVec 12} (s : State) (hal : o.toNat % 4 = 0) (hout : o.toNat ≠ 0x01C) :
    memRead P o 4 s = (readValue P s o.toNat, s) :=
  memRead_of_readValue rfl ⟨hal, hout⟩

/-- A good write of a register that takes none changes nothing. -/
theorem memWrite_ignored (P : Params) {o : BitVec 12} (v : Word) (s : State) (hal : o.toNat % 4 = 0)
    (herr : o.toNat ≠ offErr) (hlo : o.toNat ≠ offCmdLo) (hhi : o.toNat ≠ offCmdHi) (hin : o.toNat ≠ offInData) :
    memWrite P o 4 v s = .next s := by
  have hgood : goodAccess o 4 = true := (goodAccess_iff o 4).2 ⟨rfl, hal⟩
  simp [memWrite, hgood, herr, hlo, hhi, hin]

/-- Settles O24. -/
theorem plainAccessesChangeNothing : Obligations.PlainAccessesChangeNothing := by
  unfold Obligations.PlainAccessesChangeNothing
  intro P o v s hal
  exact ⟨fun hout => by rw [memRead_keeps P s hal hout],
    fun herr hlo hhi hin => memWrite_ignored P v s hal herr hlo hhi hin⟩

/-! ## The write of `ERR` (R262) -/

theorem memWrite_err (P : Params) (v : Word) (s : State) :
    memWrite P 0x00C 4 v s = .next { s with err := errClear s.err v } := rfl

/-- The mask has the nine bits that exist. -/
theorem getLsbD_errMask (n : Nat) : errMask.getLsbD n = decide (n < 9) := by
  have hmask : errMask = BitVec.ofNat 32 (2 ^ 9 - 1) := rfl
  rw [hmask, BitVec.getLsbD_ofNat, Nat.testBit_two_pow_sub_one, ← Bool.decide_and]
  exact decide_eq_decide.2 (by omega)

theorem getLsbD_errClear (err v : Word) (n : Nat) :
    (errClear err v).getLsbD n = (err.getLsbD n && !(decide (n < 9) && v.getLsbD n)) := by
  unfold errClear
  rw [BitVec.getLsbD_and, BitVec.getLsbD_not, BitVec.getLsbD_and, getLsbD_errMask, Bool.and_comm (v.getLsbD n)]
  by_cases hn : n < 32
  · simp [hn]
  · simp [BitVec.getLsbD_of_ge err n (not_lt.1 hn)]

/-- Settles O25: the new word is the old one without the written bits. -/
theorem errWriteClearsExactlyTheWrittenOnes : Obligations.ErrWriteClearsExactlyTheWrittenOnes := by
  unfold Obligations.ErrWriteClearsExactlyTheWrittenOnes
  intro P v s
  exact ⟨errClear s.err v, memWrite_err P v s, getLsbD_errClear s.err v⟩

/-! ## Pops (R265) -/

theorem popOut_cons {s : State} {w : Word} {rest : List Word} (h : s.outFifo = w :: rest) :
    popOut s = (w, { s with outFifo := rest }) := by
  rw [popOut, h]

/-- Settles O27. -/
theorem popTakesTheOldestOrUnderflows : Obligations.PopTakesTheOldestOrUnderflows := by
  unfold Obligations.PopTakesTheOldestOrUnderflows
  intro P s
  refine ⟨fun w rest h => ?_, fun h => ?_⟩
  · rw [memRead_outData, popOut_cons h]
  · rw [memRead_outData, popOut_nil h]
    rfl

/-! ## What the packed registers show (R47, R48, R53, R54) -/

theorem getLsbD_two_pow {k n : Nat} (hk : k < 32) : (BitVec.ofNat 32 (2 ^ k)).getLsbD n = decide (n = k) := by
  rw [BitVec.getLsbD_ofNat, Nat.testBit_two_pow, ← Bool.decide_and]
  exact decide_eq_decide.2 (by omega)

/-- A flag shows at its bit only. -/
theorem getLsbD_flagBit {k : Nat} (hk : k < 32) (b : Bool) (n : Nat) :
    (flagBit k b).getLsbD n = (decide (n = k) && b) := by
  cases b with
  | false => simp [flagBit]
  | true =>
    rw [Bool.and_true]
    exact getLsbD_two_pow hk

theorem getLsbD_statusWord (P : Params) (s : State) (n : Nat) :
    (statusWord P s).getLsbD n
      = (decide (n = 0) && s.busy || decide (n = 1) && decide (s.warm = P.n) || decide (n = 2) && s.gateOpen) := by
  unfold statusWord primed
  simp only [BitVec.getLsbD_or, getLsbD_flagBit (show 0 < 32 by decide), getLsbD_flagBit (show 1 < 32 by decide),
    getLsbD_flagBit (show 2 < 32 by decide)]

/-- The one-bit codes. -/
theorem getLsbD_profileCode (p : Profile) (n : Nat) :
    (BitVec.ofNat 32 (profileCode p * 2 ^ 1)).getLsbD n = (decide (n = 1) && decide (p = .clarity)) := by
  cases p with
  | plain => simp [profileCode]
  | clarity => simpa [profileCode] using getLsbD_two_pow (n := n) (show 1 < 32 by decide)

theorem getLsbD_neMethodCode (m : NeMethod) (n : Nat) :
    (BitVec.ofNat 32 (neMethodCode m * 2 ^ 2)).getLsbD n = (decide (n = 2) && decide (m = .advanced)) := by
  cases m with
  | legacy => simp [neMethodCode]
  | advanced => simpa [neMethodCode] using getLsbD_two_pow (n := n) (show 2 < 32 by decide)

/-- The two-bit code: bit 3 is the logarithmic law, bit 4 the power law. -/
theorem getLsbD_gainLawCode (g : GainLaw) (n : Nat) :
    (BitVec.ofNat 32 (gainLawCode g * 2 ^ 3)).getLsbD n
      = (decide (n = 3) && decide (g = .logarithmic) || decide (n = 4) && decide (g = .power)) := by
  cases g with
  | linear => simp [gainLawCode]
  | logarithmic => simpa [gainLawCode] using getLsbD_two_pow (n := n) (show 3 < 32 by decide)
  | power => simpa [gainLawCode] using getLsbD_two_pow (n := n) (show 4 < 32 by decide)

theorem getLsbD_activeCfgWord (c : Cfg) (n : Nat) :
    (activeCfgWord c).getLsbD n
      = (decide (n = 0) && c.enabled || decide (n = 1) && decide (c.profile = .clarity)
          || decide (n = 2) && decide (c.neMethod = .advanced) || decide (n = 3) && decide (c.gainLaw = .logarithmic)
          || decide (n = 4) && decide (c.gainLaw = .power) || decide (n = 5) && c.smoother) := by
  unfold activeCfgWord
  simp only [BitVec.getLsbD_or, getLsbD_flagBit (show 0 < 32 by decide), getLsbD_flagBit (show 5 < 32 by decide),
    getLsbD_profileCode, getLsbD_neMethodCode, getLsbD_gainLawCode, Bool.or_assoc]

theorem getLsbD_pendingWord (p : Pend) (n : Nat) :
    (pendingWord p).getLsbD n
      = (decide (n = 1) && p.enabled.valid || decide (n = 2) && p.strength.valid
          || decide (n = 3) && p.resetPending || decide (n = 4) && p.profile.valid
          || decide (n = 5) && p.neMethod.valid || decide (n = 6) && p.gainLaw.valid
          || decide (n = 7) && p.smoother.valid || decide (n = 8) && p.sshape.valid
          || decide (n = 9) && p.bshape.valid || decide (n = 10) && p.gdepth.valid) := by
  have hflag (k : Nat) (hk : k < 32) (b : Bool) := getLsbD_flagBit hk b n
  unfold pendingWord
  simp only [BitVec.getLsbD_or]
  rw [hflag 1 (by decide), hflag 2 (by decide), hflag 3 (by decide), hflag 4 (by decide), hflag 5 (by decide),
    hflag 6 (by decide), hflag 7 (by decide), hflag 8 (by decide), hflag 9 (by decide), hflag 10 (by decide)]

/-- `GEOMETRY` as a number: its four bytes, each cut to a byte. -/
theorem geometryWord_toNat (P : Params) :
    (geometryWord P).toNat
      = P.v % 256 * 2 ^ 24 + P.d % 256 * 2 ^ 16 + P.h.log2 % 256 * 2 ^ 8 + P.n.log2 % 256 := by
  unfold geometryWord
  simp only [BitVec.toNat_append, BitVec.toNat_ofNat]
  rw [← Nat.shiftLeft_add_eq_or_of_lt (by omega), ← Nat.shiftLeft_add_eq_or_of_lt (by omega),
    ← Nat.shiftLeft_add_eq_or_of_lt (by omega)]
  simp only [Nat.shiftLeft_eq]
  omega

/-- Settles O28, register by register. -/
theorem packedRegistersShowTheirBits : Obligations.PackedRegistersShowTheirBits := by
  unfold Obligations.PackedRegistersShowTheirBits
  intro P s
  exact ⟨fun n => ⟨getLsbD_statusWord P s n, getLsbD_activeCfgWord s.cfg n, getLsbD_pendingWord s.pend n⟩,
    memRead_of_readValue rfl, geometryWord_toNat P, memRead_of_readValue rfl, memRead_of_readValue rfl,
    memRead_of_readValue rfl, memRead_of_readValue rfl, memRead_of_readValue rfl, memRead_of_readValue rfl,
    memRead_of_readValue rfl, memRead_of_readValue rfl, memRead_of_readValue rfl, memRead_of_readValue rfl,
    memRead_of_readValue rfl, memRead_of_readValue rfl, memRead_of_readValue rfl⟩

/-! ## The window (R67) -/

theorem busTarget_outside {P : Params} {addr : Nat} (h : addr < P.base ∨ P.base + windowSize ≤ addr) :
    busTarget P addr = .outside := if_neg (by omega)

theorem busTarget_window {P : Params} {k : Nat} (h : k < windowSize) :
    busTarget P (P.base + k) = .window (BitVec.ofNat 12 k) := by
  have hin : P.base ≤ P.base + k ∧ P.base + k < P.base + windowSize := ⟨by omega, by omega⟩
  rw [busTarget, if_pos hin, Nat.add_sub_cancel_left]

/-- Settles O30. -/
theorem accessesOutsideTheWindowAreRefused : Obligations.AccessesOutsideTheWindowAreRefused := by
  unfold Obligations.AccessesOutsideTheWindowAreRefused
  refine ⟨fun addr size v s rest hout hagenda => ?_, fun k size v hk => ⟨?_, ?_⟩⟩
  · have htarget : busTarget Config.params addr = .outside := busTarget_outside hout
    obtain hread | hwrite := hagenda
    · rw [step_event s hread, readAt, htarget]
      rfl
    · rw [step_event s hwrite, writeAt, htarget]
      rfl
  · exact congrArg (Event.read · size) (busTarget_window (P := Config.params) hk)
  · exact congrArg (Event.write · size v) (busTarget_window (P := Config.params) hk)

/-! ## Steps inside the window go on (R280, R283) -/

theorem issueInstr_next (P : Params) (i : Instr) (s : State) : ∃ t, issueInstr P i s = .next t := by
  cases i <;> exact ⟨_, rfl⟩

theorem memWrite_next (P : Params) (o : BitVec 12) (size : Nat) (v : Word) (s : State) :
    ∃ t, memWrite P o size v s = .next t := by
  have hissue (c : CmdWord) : ∃ t, issueWord P c s = .next t := by
    unfold issueWord
    cases decode c with
    | instr i => exact issueInstr_next P i s
    | illegal _ => exact ⟨_, rfl⟩
  unfold memWrite
  split
  · exact ⟨_, rfl⟩
  split
  · exact ⟨_, rfl⟩
  split
  · exact ⟨_, rfl⟩
  split
  · exact hissue _
  split
  · exact ⟨_, rfl⟩
  · exact ⟨_, rfl⟩

/-- An event in the window has a next state, whatever the state it finds. -/
theorem runEvent_next (P : Params) {e : Event} (h : e.inWindow = true) (s : State) : ∃ t, runEvent P e s = .next t := by
  cases e with
  | read target size =>
    cases target with
    | window o => exact ⟨_, rfl⟩
    | outside => cases h
  | write target size v =>
    cases target with
    | window o => exact memWrite_next P o size v s
    | outside => cases h
  | engine => exact ⟨_, rfl⟩
  | powerOn => exact ⟨_, rfl⟩

/-- A host access takes nothing from the environment's events. -/
theorem agenda_accessInvariant (P : Params) (a : List Event) : AccessInvariant P (fun s => s.agenda = a) where
  busData _ h := h
  seterr _ h := h
  pop _ h := h
  latch _ h := h
  push _ _ h := h
  pend _ h := h
  accept _ _ _ h := (accept_frame P _ _).agenda.trans h

theorem engineTurn_agenda (P : Params) (s : State) : (engineTurn P s).agenda = s.agenda := by
  unfold engineTurn
  split
  · exact engineBlock_agenda P s
  · rfl

theorem runEvent_agenda {P : Params} {e : Event} {s t : State} (h : runEvent P e s = .next t) :
    t.agenda = s.agenda := by
  cases e with
  | read target size => exact (agenda_accessInvariant P s.agenda).event rfl h rfl (fun _ _ => rfl)
  | write target size v => exact (agenda_accessInvariant P s.agenda).event rfl h rfl (fun _ _ => rfl)
  | engine =>
    cases h
    exact engineTurn_agenda P s
  | powerOn =>
    cases h
    exact powerOnReset_agenda P s

/-- Settles O31: the next event goes on, and the others are kept. -/
theorem inWindowStepsAlwaysGoOn : Obligations.InWindowStepsAlwaysGoOn := by
  unfold Obligations.InWindowStepsAlwaysGoOn
  intro s hwindow
  cases hagenda : s.agenda with
  | nil =>
    refine ⟨_, step_engine s hagenda, ?_⟩
    rwa [State.inWindow, engineTurn_agenda]
  | cons e rest =>
    rw [State.inWindow, hagenda, List.all_cons, Bool.and_eq_true] at hwindow
    obtain ⟨he, hrest⟩ := hwindow
    obtain ⟨t, ht⟩ := runEvent_next Config.params he { s with agenda := rest }
    refine ⟨t, (step_event s hagenda).trans ht, ?_⟩
    rwa [State.inWindow, runEvent_agenda ht]

end Sys2Proof.Machine
end

section
/-! PROOFS of the statements about runs and steps (40_ring_scheduler.md, 49_host_registers.md, 60_exceptions.md,
70_reset_and_hazards.md): sticky errors (R281), resets (R300, R301), host accesses while a block is in flight (R311),
the block's completion (R102, R112), polls (R320) and the callback (R266). -/

namespace Sys2Proof.Machine

/-! ## Sticky errors (R262, R281) -/

theorem getLsbD_or_left {a : Word} {n : Nat} (b : Word) (h : a.getLsbD n = true) : (a ||| b).getLsbD n = true := by
  rw [BitVec.getLsbD_or, h, Bool.true_or]

theorem errBit_engineInvariant (P : Params) (n : Nat) : EngineInvariant P (fun s => s.err.getLsbD n = true) where
  same hst h := by rwa [hst.err]
  seterr _ h := getLsbD_or_left _ h
  noise {s} pw h := by
    obtain he | he := noiseUpdate_err (P := P) (s := s) pw
    · rwa [he]
    · rw [he]
      exact getLsbD_or_left _ h
  smoother _ _ h := h

theorem errBit_stepInvariant (n : Nat) : StepInvariant (fun s => s.err.getLsbD n = true) where
  seterr _ h := getLsbD_or_left _ h
  latch _ h := h
  push _ _ h := h
  pend _ h := h
  accept _ _ _ h := by rwa [(accept_frame _ _ _).err]
  busData _ h := h
  pop _ h := h
  agenda _ h := h
  block _ h := (errBit_engineInvariant _ n).block h

/-- Settles O54: nothing but the two events excluded clears a bit. -/
theorem errBitsAreSticky : Obligations.ErrBitsAreSticky := by
  unfold Obligations.ErrBitsAreSticky
  intro s t n hstep hevent hbit
  refine (errBit_stepInvariant n).step hstep hbit (fun v rest hclear => ?_) (fun rest hpower => ?_)
  · obtain ⟨-, hw⟩ := hevent _ rest hclear
    cases hw
  · obtain ⟨hne, -⟩ := hevent _ rest hpower
    exact absurd rfl hne

/-! ## Resets (R300, R301) -/

theorem advanceScheduler_warm_le (P : Params) (s : State) : s.warm ≤ (advanceScheduler P s).warm := by
  by_cases h : s.warm < P.n
  · rw [advanceScheduler_warming h]
    exact Nat.le_succ _
  · rw [advanceScheduler_primed h]

theorem warm_stepInvariant (w : Nat) : StepInvariant (fun s => w ≤ s.warm) where
  seterr _ h := h
  latch _ h := h
  push _ _ h := h
  pend _ h := h
  accept _ _ _ h := by rwa [(accept_frame _ _ _).warm]
  busData _ h := h
  pop _ h := h
  agenda _ h := h
  block {s} _ h := engineBlock_keeps_sequencer (I := fun s => w ≤ s.warm) (fun hst h => by rwa [hst.2.1])
    (fun {s} h => h.trans (advanceScheduler_warm_le _ s)) h

/-- The sequencer and the rings are those of `s`. -/
def SameRings (s t : State) : Prop :=
  t.warm = s.warm ∧ t.idx = s.idx ∧ t.hopPhase = s.hopPhase ∧ t.mem.inRing = s.mem.inRing
    ∧ t.mem.outRing = s.mem.outRing

theorem sameRings_accessInvariant (P : Params) (s : State) : AccessInvariant P (SameRings s) where
  seterr _ h := h
  latch _ h := h
  push _ _ h := h
  pend _ h := h
  accept {u l} _ _ _ h := by
    have f := accept_frame P l u
    obtain ⟨hwarm, hidx, hhop, hin, hout⟩ := h
    exact ⟨f.warm.trans hwarm, f.idx.trans hidx, f.hopPhase.trans hhop, f.inRing.trans hin, f.outRing.trans hout⟩
  busData _ h := h
  pop _ h := h

/-- Settles O56: what power-on writes; what no other step and no host access writes. -/
theorem powerOnResetsEverythingAndAloneRestarts : Obligations.PowerOnResetsEverythingAndAloneRestarts := by
  unfold Obligations.PowerOnResetsEverythingAndAloneRestarts
  refine ⟨fun s rest hagenda => step_event s hagenda, fun s t hstep hno => ⟨?_, ?_⟩⟩
  · exact (warm_stepInvariant s.warm).step hstep le_rfl (fun _ _ _ => le_rfl)
      (fun rest hpower => absurd hpower (hno rest))
  · rintro ⟨e, rest, hagenda, hhost⟩
    rw [step_event s hagenda] at hstep
    exact (sameRings_accessInvariant Config.params s).event hhost hstep ⟨rfl, rfl, rfl, rfl, rfl⟩
      (fun _ _ => ⟨rfl, rfl, rfl, rfl, rfl⟩)

/-! ## Host accesses while a block is in flight (R71, R311) -/

/-- A block is in flight, and what it owns is as in `s`. -/
def OwnedBy (s t : State) : Prop :=
  t.busy = true ∧ t.jobL = s.jobL ∧ t.jobX = s.jobX ∧ t.cfg = s.cfg ∧ t.mem = s.mem
    ∧ t.idx = s.idx ∧ t.warm = s.warm ∧ t.hopPhase = s.hopPhase ∧ t.frameCnt = s.frameCnt
    ∧ t.subPtr = s.subPtr ∧ t.subCnt = s.subCnt ∧ t.rawFlat = s.rawFlat ∧ t.sflat = s.sflat
    ∧ t.gateOpen = s.gateOpen ∧ t.hold = s.hold ∧ t.gateMult = s.gateMult
    ∧ t.telemGr = s.telemGr ∧ t.telemFlat = s.telemFlat ∧ t.telemSeq = s.telemSeq
    ∧ t.telemPhase = s.telemPhase

/-- While a block is in flight no access is an accept, and nothing else an access does touches the block. -/
theorem ownedBy_accessInvariant (P : Params) (s : State) : AccessInvariant P (OwnedBy s) where
  seterr _ h := h
  latch _ h := h
  push _ _ h := h
  pend _ h := h
  accept hidle _ _ h := absurd (hidle.symm.trans h.1) Bool.false_ne_true
  busData _ h := h
  pop _ h := h

/-- A write while a block is in flight leaves the output queue. -/
theorem outFifo_writeInvariant (P : Params) (f : List Word) :
    WriteInvariant P (fun s => s.busy = true ∧ s.outFifo = f) where
  seterr _ h := h
  latch _ h := h
  push _ _ h := h
  pend _ h := h
  accept hidle _ _ h := absurd (hidle.symm.trans h.1) Bool.false_ne_true

/-- A read takes at most the oldest output word. -/
theorem readAndKeep_outFifo (P : Params) (o : BitVec 12) (size : Nat) (s : State) :
    (readAndKeep P o size s).outFifo = s.outFifo ∨ (readAndKeep P o size s).outFifo = s.outFifo.tail := by
  change (memRead P o size s).2.outFifo = _ ∨ (memRead P o size s).2.outFifo = _
  obtain h | ⟨w, rest, hw, h⟩ | h | h := memRead_state P o size s <;> rw [h]
  · exact .inl rfl
  · exact .inr (by rw [hw]; rfl)
  · exact .inl rfl
  · exact .inl rfl

/-- Settles O40: no access is an accept, and the one that touches the output queue is a pop. -/
theorem hostAccessesWhileBusyLeaveTheBlock : Obligations.HostAccessesWhileBusyLeaveTheBlock := by
  unfold Obligations.HostAccessesWhileBusyLeaveTheBlock
  intro s t e rest hbusy hagenda hhost hstep
  rw [step_event s hagenda] at hstep
  have hself : OwnedBy s s := ⟨hbusy, by simp⟩
  have howned : OwnedBy s t := (ownedBy_accessInvariant Config.params s).event hhost hstep hself (fun _ _ => hself)
  have hout : t.outFifo = s.outFifo ∨ t.outFifo = s.outFifo.tail := by
    obtain ⟨o, size, rfl, rfl⟩ | ⟨o, size, v, rfl, hwrite⟩ | ⟨rfl, -⟩ | ⟨rfl, -⟩ := runEvent_cases hstep
    · exact readAndKeep_outFifo _ _ _ _
    · exact .inl ((outFifo_writeInvariant Config.params s.outFifo).write hwrite ⟨hbusy, rfl⟩
        (fun _ _ => ⟨hbusy, rfl⟩)).2
    · cases hhost
    · cases hhost
  simpa only [OwnedBy, and_assoc] using And.intro howned hout

/-! ## The block's completion (R102, R112) -/

/-- Settles O32: the host's side of a block. -/
theorem engineTurnCompletesTheBlock : Obligations.EngineTurnCompletesTheBlock := by
  unfold Obligations.EngineTurnCompletesTheBlock
  intro s hbusy hagenda
  refine ⟨engineBlock Config.params s, blockOutput Config.params s, ?_, blockOutput_length _ s, engineBlock_outFifo _ s,
    rfl, rfl, rfl, engineBlock_cfg _ s, engineBlock_pend _ s, engineBlock_inFifo _ s, engineBlock_cmdLo _ s,
    engineBlock_busData _ s, (engineBlock_agenda _ s).trans hagenda⟩
  rw [step_engine s hagenda, engineTurn_busy hbusy]

/-! ## Polls (R92, R320) -/

/-- Bit 0 of `STATUS` is `BUSY` (R48). -/
theorem statusWord_busy (P : Params) (s : State) : (statusWord P s).getLsbD 0 = s.busy := by
  rw [getLsbD_statusWord]
  simp

theorem step_poll {s : State} {rest : List Event} (h : s.agenda = rd32 offStatus :: rest) :
    step s = .next { s with agenda := rest, busData := statusWord Config.params s } := step_event s h

/-- After one poll or more the host holds `STATUS`, and nothing else has changed. -/
theorem runSteps_polls {n : Nat} {s : State} {rest : List Event}
    (h : s.agenda = List.replicate (n + 1) (rd32 offStatus) ++ rest) :
    runSteps (n + 1) s = .next { s with agenda := rest, busData := statusWord Config.params s } := by
  induction n generalizing s with
  | zero => exact (runSteps_one s).trans (step_poll h)
  | succ n ih =>
    rw [runSteps_next (step_poll h), ih rfl]
    rfl

/-- After any number of polls nothing has changed but the word the host holds. -/
theorem runSteps_polls_any (n : Nat) {s : State} {rest : List Event}
    (h : s.agenda = List.replicate n (rd32 offStatus) ++ rest) :
    ∃ d, runSteps n s = .next { s with agenda := rest, busData := d } := by
  cases n with
  | zero =>
    subst h
    exact ⟨s.busData, rfl⟩
  | succ n => exact ⟨_, runSteps_polls h⟩

/-- The first polls of a list of them. -/
theorem replicate_split {α : Type} {k n : Nat} (h : k ≤ n) (a : α) :
    List.replicate n a = List.replicate k a ++ List.replicate (n - k) a := by
  rw [List.replicate_append_replicate, Nat.add_sub_cancel' h]

theorem memRead_status (P : Params) (s : State) : memRead P 0x008 4 s = (statusWord P s, s) :=
  memRead_of_readValue rfl

theorem step_block {s : State} (hbusy : s.busy = true) (hagenda : s.agenda = []) :
    step s = .next (engineBlock Config.params s) := by
  rw [step_engine s hagenda, engineTurn_busy hbusy]

/-- Settles O39: the polls change nothing, and then the engine has its turn. -/
theorem waitEnds_of_inFlight : Obligations.WaitEnds := by
  unfold Obligations.WaitEnds
  intro s polls hbusy hagenda
  refine ⟨fun k hk => ⟨_, runSteps_polls (hagenda.trans (replicate_split (Nat.succ_le_of_lt hk) _)), ?_⟩, ?_⟩
  · rw [waitEnds, statusWord_busy, hbusy]
    rfl
  · obtain ⟨d, hd⟩ := runSteps_polls_any polls (hagenda.trans (List.append_nil _).symm)
    have hstep : step { s with agenda := [], busData := d } = _ := step_block hbusy rfl
    refine ⟨_, (runSteps_add hd).trans ((runSteps_one _).trans hstep), rfl, ?_⟩
    rw [memRead_status, statusWord_busy]
    rfl

/-! ## The callback (R266, R311) -/

theorem step_push {s : State} {v : Word} {rest : List Event} (h : s.agenda = wr32 offInData v :: rest)
    (hroom : s.inFifo.length < 4096) :
    step s = .next { s with inFifo := s.inFifo ++ [v], agenda := rest } :=
  (step_write h).trans (congrArg Host.Outcome.next
    (pushIn_of_room (P := Config.params) (s := { s with agenda := rest }) v hroom))

theorem step_pop {s : State} {w : Word} {words : List Word} {rest : List Event} (h : s.agenda = rd32 offOutData :: rest)
    (hout : s.outFifo = w :: words) :
    step s = .next { s with outFifo := words, agenda := rest, busData := w } := by
  have hpop : memRead Config.params (BitVec.ofNat 12 offOutData) 4 { s with agenda := rest }
      = (w, { s with agenda := rest, outFifo := words }) := popOut_cons (s := { s with agenda := rest }) hout
  rw [step_read h, readAndKeep, hpop]

/-- Pushes that fit append their words in order. -/
theorem runSteps_pushes {xs : List Word} {s : State} {rest : List Event}
    (h : s.agenda = xs.map (wr32 offInData) ++ rest) (hroom : s.inFifo.length + xs.length ≤ 4096) :
    runSteps xs.length s = .next { s with inFifo := s.inFifo ++ xs, agenda := rest } := by
  induction xs generalizing s with
  | nil =>
    subst h
    rw [List.append_nil]
    rfl
  | cons x xs ih =>
    rw [List.length_cons] at hroom
    have hfit : (s.inFifo ++ [x]).length + xs.length ≤ 4096 := by
      rw [List.length_append, List.length_singleton]
      omega
    rw [List.length_cons, runSteps_next (step_push h (by omega)), ih rfl hfit]
    simp only [List.append_assoc, List.singleton_append]

/-- Pops of words that are there return them in order. -/
theorem runSteps_pops {n : Nat} {s : State} {rest : List Event}
    (h : s.agenda = List.replicate n (rd32 offOutData) ++ rest) (hn : n ≤ s.outFifo.length) :
    runSteps n s = .next { s with
      outFifo := s.outFifo.drop n, agenda := rest, busData := (s.busData :: s.outFifo).getD n 0 } := by
  induction n generalizing s with
  | zero =>
    subst h
    rfl
  | succ n ih =>
    cases hout : s.outFifo with
    | nil =>
      rw [hout] at hn
      cases hn
    | cons w words =>
      rw [hout] at hn
      rw [runSteps_next (step_pop h hout), ih rfl (Nat.le_of_succ_le_succ hn)]
      rfl

/-- The first part of the callback: the pushes and the command leave the block in flight. -/
theorem runSteps_pushes_process {xs : List Word} {s : State} {rest : List Event} (hlen : xs.length ≤ 4096)
    (hidle : s.busy = false) (hin : s.inFifo = []) (hout : s.outFifo = [])
    (h : s.agenda = xs.map (wr32 offInData) ++ (commandEvents (.process (BitVec.ofNat 32 xs.length)) ++ rest)) :
    ∃ t, runSteps (xs.length + 2) s = .next t ∧ t.busy = true ∧ t.jobX = xs ∧ t.inFifo = [] ∧ t.outFifo = []
      ∧ t.agenda = rest := by
  have hl : (BitVec.ofNat 32 xs.length).toNat = xs.length := by
    rw [BitVec.toNat_ofNat]
    exact Nat.mod_eq_of_lt (by omega)
  have hpush : runSteps xs.length s = .next { s with
      inFifo := xs, agenda := commandEvents (.process (BitVec.ofNat 32 xs.length)) ++ rest } := by
    have hfit : s.inFifo.length + xs.length ≤ 4096 := by simpa [hin] using hlen
    rw [runSteps_pushes h hfit, hin, List.nil_append]
  have hissue := commandAccessesIssueTheCommand (.process (BitVec.ofNat 32 xs.length))
    { s with inFifo := xs, agenda := commandEvents (.process (BitVec.ofNat 32 xs.length)) ++ rest } rest rfl
  have hready : (BitVec.ofNat 32 xs.length).toNat + s.outFifo.length ≤ 4096 := by simpa [hl, hout] using hlen
  have haccept := processCommand_of_ready (P := Config.params) (l := BitVec.ofNat 32 xs.length)
    (s := { s with inFifo := xs, cmdLo := BitVec.ofNat 32 xs.length, agenda := rest }) hidle hl.le hready
  have f := accept_frame Config.params (BitVec.ofNat 32 xs.length)
    { s with inFifo := xs, cmdLo := BitVec.ofNat 32 xs.length, agenda := rest }
  refine ⟨_, (runSteps_add hpush).trans (hissue.trans (congrArg Host.Outcome.next haccept)), rfl, ?_, ?_,
    f.outFifo.trans hout, f.agenda⟩
  · rw [accept_eq, hl]
    exact List.take_length
  · rw [accept_eq, hl]
    exact List.drop_length

theorem step_engineEvent {s : State} {rest : List Event} (hbusy : s.busy = true) (h : s.agenda = .engine :: rest) :
    step s = .next (engineBlock Config.params { s with agenda := rest }) := by
  rw [step_event s h]
  exact congrArg Host.Outcome.next (engineTurn_busy hbusy)

/-- The second part: the engine's turn and the poll that finds it done. -/
theorem runSteps_engine_poll {s : State} {rest : List Event} (hbusy : s.busy = true)
    (h : s.agenda = .engine :: rd32 offStatus :: rest) :
    ∃ t, runSteps 2 s = .next t ∧ t.busData.getLsbD 0 = false ∧ t.busy = false ∧ t.inFifo = s.inFifo
      ∧ (∃ ys, ys.length = s.jobX.length ∧ t.outFifo = s.outFifo ++ ys) ∧ t.agenda = rest := by
  have hpoll := step_poll (s := engineBlock Config.params { s with agenda := rd32 offStatus :: rest }) (rest := rest)
    (engineBlock_agenda _ _)
  refine ⟨_, (runSteps_next (step_engineEvent hbusy h)).trans ((runSteps_one _).trans hpoll), ?_, rfl,
    engineBlock_inFifo _ _,
    ⟨blockOutput Config.params { s with agenda := rd32 offStatus :: rest }, blockOutput_length _ _,
      engineBlock_outFifo _ _⟩, rfl⟩
  exact statusWord_busy _ _

/-- Settles O38: the pushes and the command, the polls, the engine's turn, the pops. -/
theorem callbackReturnsAnEqualLengthBlock : Obligations.CallbackReturnsAnEqualLengthBlock := by
  unfold Obligations.CallbackReturnsAnEqualLengthBlock
  intro xs polls s hlen hidle hin hout hagenda
  simp only [List.append_assoc, List.cons_append, List.nil_append] at hagenda
  obtain ⟨t, hrun, hbusy, hjob, htin, htout, htagenda⟩ := runSteps_pushes_process hlen hidle hin hout hagenda
  obtain ⟨d, hpolled⟩ := runSteps_polls_any polls htagenda
  obtain ⟨u, hturn, hdone, hubusy, huin, ⟨ys, hylen, huout⟩, huagenda⟩ := runSteps_engine_poll
    (s := { t with agenda := _, busData := d }) hbusy rfl
  have hys : u.outFifo = ys := huout.trans (by rw [htout]; rfl)
  have hlen' : ys.length = xs.length := hylen.trans (congrArg List.length hjob)
  have hrun' : runSteps (xs.length + 2 + polls + 2) s = .next u := by
    rw [Nat.add_assoc _ polls, runSteps_add hrun, runSteps_add hpolled, hturn]
  refine ⟨ys, hlen', fun k hk => ?_, ⟨u, hrun', hdone, hubusy, huin.trans htin, hys⟩, fun k hk => ?_⟩
  · have hsplit := htagenda
    rw [replicate_split (Nat.succ_le_of_lt hk), List.append_assoc] at hsplit
    refine ⟨_, (runSteps_add hrun).trans (runSteps_polls hsplit), ?_⟩
    exact (statusWord_busy _ _).trans hbusy
  · have hsplit := huagenda.trans (replicate_split (Nat.succ_le_of_lt hk) _)
    have hpops := runSteps_pops hsplit (by rw [hys, hlen']; exact hk)
    refine ⟨_, (runSteps_add hrun').trans hpops, ?_, congrArg (List.drop (k + 1)) hys, huin.trans htin⟩
    show some ((u.busData :: u.outFifo).getD (k + 1) 0) = ys[k]?
    rw [hys, List.getD_cons_succ, List.getD_eq_getElem _ _ (by omega), List.getElem?_eq_getElem]

end Sys2Proof.Machine
end

section
/-! PROOFS of the statements about the sample step (40_ring_scheduler.md, 41_transform.md): bypass (R108), cold start
(R109), output selection (R107, R116), the output ring (R106, R128) and the samples of a frame (R122). -/

namespace Sys2Proof.Machine

/-! ## The rings (R68) -/

/-- Two places of a ring a positive distance below its size apart are not the same place. -/
theorem ring_place_ne {m i k : Nat} (hpos : 0 < k) (hlt : k < m) : (i + k) % m ≠ i % m := by
  intro h
  have hdvd : m ∣ k := by
    have := (Nat.modEq_iff_dvd' (Nat.le_add_right i k)).1 h.symm
    rwa [Nat.add_sub_cancel_left] at this
  exact absurd (Nat.le_of_dvd hpos hdvd) (not_le.2 hlt)

theorem getD_set_same {α : Type} {l : List α} {i : Nat} (a d : α) (h : i < l.length) : (l.set i a).getD i d = a := by
  simp [h]

theorem getD_set_other {α : Type} {l : List α} {i j : Nat} (a d : α) (h : i ≠ j) :
    (l.set i a).getD j d = l.getD j d := by
  simp [h]

/-! ## Output selection (R107) -/

/-- The state a sample step hands to the output selection: the cell drained, the multiplier moved. -/
def beforeSelect (P : Params) (x : Word) (s : State) : State :=
  outWrite P s.idx F64.zero (gateMultStep P (sampleInput P x s))

/-- The overlap-add value a sample step hands to the output selection. -/
def drainedCell (P : Params) (x : Word) (s : State) : F64 := outRead P (gateMultStep P (sampleInput P x s)) s.idx

theorem sampleStep_eq (P : Params) (x : Word) (s : State) :
    sampleStep P x s = selectOutput P x s.warm s.idx (drainedCell P x s) (beforeSelect P x s) := rfl

theorem beforeSelect_cfg (P : Params) (x : Word) (s : State) : (beforeSelect P x s).cfg = s.cfg :=
  (sampleInput_sampleFrame P x s).cfg

/-- Everything the output selection can do. -/
theorem selectOutput_cases (P : Params) (x : Word) (warm i : Nat) (ola : F64) (s : State) :
    (s.cfg.enabled = false ∧ selectOutput P x warm i ola s = (s, bypassWord P s i))
      ∨ (s.cfg.enabled = true ∧ warm < P.n ∧ selectOutput P x warm i ola s = (s, x))
      ∨ (s.cfg.enabled = true ∧ P.n ≤ warm ∧ finiteWord (outputStage P s ola) = true
        ∧ selectOutput P x warm i ola s = (s, outputStage P s ola))
      ∨ (s.cfg.enabled = true ∧ P.n ≤ warm ∧ finiteWord (outputStage P s ola) = false
        ∧ selectOutput P x warm i ola s = (seterr .stateGuard s, bypassWord P s i)) := by
  unfold selectOutput
  cases he : s.cfg.enabled with
  | false => simp
  | true =>
    by_cases hw : warm < P.n
    · simp [hw]
    · have hn : P.n ≤ warm := not_lt.1 hw
      cases hf : finiteWord (outputStage P s ola) <;> simp [hw, hn]

/-! ## Bypass (R108) -/

/-- While disabled a sample step returns the word `N` places ahead in the ring, which the step does not write. -/
theorem sampleStep_bypass {P : Params} {s : State} (x : Word) (hn : 0 < P.n) (he : s.cfg.enabled = false) :
    (sampleStep P x s).2 = s.mem.inRing.getD ((s.idx + P.n) % (2 * P.n)) 0 := by
  have hring : (sampleStep P x s).1.mem.inRing = s.mem.inRing.set (s.idx % (2 * P.n)) x := sampleStep_inRing P x s
  rw [sampleStep_eq] at hring ⊢
  obtain ⟨-, h⟩ | ⟨he', -⟩ | ⟨he', -⟩ | ⟨he', -⟩ :=
    selectOutput_cases P x s.warm s.idx (drainedCell P x s) (beforeSelect P x s)
  · rw [h] at hring ⊢
    show (beforeSelect P x s).mem.inRing.getD _ 0 = _
    rw [hring, getD_set_other _ _ (ring_place_ne hn (by omega)).symm]
  all_goals
    rw [beforeSelect_cfg, he] at he'
    cases he'

theorem sampleStep_idx (P : Params) (x : Word) (s : State) : (sampleStep P x s).1.idx = (s.idx + 1) % (2 * P.n) := by
  rw [(sampleStep_seq P x s).1]
  unfold advanceScheduler
  split <;> rfl

/-- The word the bypass returns after `i` more samples: one of them from the `N`-th on, before that one of the ring. -/
theorem runSamples_bypass {P : Params} (hn : 0 < P.n) (xs : List Word) {s : State}
    (hlen : s.mem.inRing.length = 2 * P.n) (he : s.cfg.enabled = false) {i : Nat} (hi : i < xs.length) :
    (runSamples P xs s).2[i]?
      = some (if i < P.n then s.mem.inRing.getD ((s.idx + i + P.n) % (2 * P.n)) 0 else xs.getD (i - P.n) 0) := by
  induction xs generalizing s i with
  | nil => cases hi
  | cons x xs ih =>
    cases i with
    | zero =>
      rw [if_pos hn]
      exact congrArg some (sampleStep_bypass x hn he)
    | succ i =>
      have hring := sampleStep_inRing P x s
      have hnext := ih (s := (sampleStep P x s).1) (by rw [hring, List.length_set, hlen])
        (by rwa [(sampleStep_sampleFrame P x s).cfg]) (Nat.lt_of_succ_lt_succ hi)
      have hplace : (((s.idx + 1) % (2 * P.n)) + i + P.n) % (2 * P.n) = (s.idx + (i + 1 + P.n)) % (2 * P.n) := by
        rw [Nat.add_assoc, Nat.mod_add_mod]
        congr 1
        omega
      refine hnext.trans (congrArg some ?_)
      rw [hring, sampleStep_idx, hplace, Nat.add_assoc s.idx]
      by_cases hin : i < P.n
      · by_cases hlast : i + 1 = P.n
        · have hback : (s.idx + (i + 1 + P.n)) % (2 * P.n) = s.idx % (2 * P.n) := by
            rw [hlast, ← Nat.two_mul, Nat.add_mod_right]
          rw [if_pos hin, if_neg (by omega), hback, getD_set_same _ _ (by rw [hlen]; exact Nat.mod_lt _ (by omega)),
            hlast, Nat.sub_self]
          rfl
        · rw [if_pos hin, if_pos (by omega), getD_set_other _ _ (ring_place_ne (by omega) (by omega)).symm]
      · rw [if_neg hin, if_neg (by omega), Nat.succ_sub (not_lt.1 hin)]
        rfl

/-- Settles O33. -/
theorem bypassDelaysByExactlyN : Obligations.BypassDelaysByExactlyN := by
  unfold Obligations.BypassDelaysByExactlyN
  intro P xs s hn hlen he i hi
  exact runSamples_bypass hn xs hlen he hi

/-! ## Cold start (R109) -/

theorem sampleStep_warm (P : Params) (x : Word) {s : State} (h : s.warm ≤ P.n) :
    (sampleStep P x s).1.warm = min (s.warm + 1) P.n := by
  obtain ⟨-, hwarm, -⟩ := sampleStep_seq P x s
  rw [hwarm]
  by_cases hlt : s.warm < P.n
  · rw [advanceScheduler_warming hlt]
    exact (Nat.min_eq_left hlt).symm
  · rw [advanceScheduler_primed hlt]
    show s.warm = min (s.warm + 1) P.n
    omega

/-- `WARM` counts the samples up to `N`. -/
theorem runSamples_warm (P : Params) (xs : List Word) {s : State} (h : s.warm ≤ P.n) :
    (runSamples P xs s).1.warm = min (s.warm + xs.length) P.n := by
  induction xs generalizing s with
  | nil => exact (Nat.min_eq_left h).symm
  | cons x xs ih =>
    have hstep := sampleStep_warm P x h
    refine (ih (s := (sampleStep P x s).1) (by omega)).trans ?_
    rw [hstep, List.length_cons]
    omega

/-- While warming an enabled sample step returns its input word. -/
theorem sampleStep_cold {P : Params} {s : State} (x : Word) (he : s.cfg.enabled = true) (hw : s.warm < P.n) :
    (sampleStep P x s).2 = x := by
  rw [sampleStep_eq]
  obtain ⟨he', -⟩ | ⟨-, -, h⟩ | ⟨-, hw', -⟩ | ⟨-, hw', -⟩ :=
    selectOutput_cases P x s.warm s.idx (drainedCell P x s) (beforeSelect P x s)
  · rw [beforeSelect_cfg, he] at he'
    cases he'
  · rw [h]
  · omega
  · omega

theorem runSamples_cold {P : Params} (xs : List Word) {s : State} (he : s.cfg.enabled = true) (hwarm : s.warm ≤ P.n)
    {i : Nat} (hi : i < xs.length) (hw : s.warm + i < P.n) : (runSamples P xs s).2[i]? = xs[i]? := by
  induction xs generalizing s i with
  | nil => cases hi
  | cons x xs ih =>
    cases i with
    | zero => exact congrArg some (sampleStep_cold x he hw)
    | succ i =>
      have hstep := sampleStep_warm P x hwarm
      exact ih (s := (sampleStep P x s).1) (by rwa [(sampleStep_sampleFrame P x s).cfg]) (by omega)
        (Nat.lt_of_succ_lt_succ hi) (by omega)

/-- Settles O34. -/
theorem coldStartPassesInputThrough : Obligations.ColdStartPassesInputThrough := by
  unfold Obligations.ColdStartPassesInputThrough
  intro P xs s hwarm
  exact ⟨fun he i hi hw => runSamples_cold xs he hwarm hi hw, runSamples_warm P xs hwarm, resetAdaptive_warm P s⟩

/-! ## The processed path (R107, R116) -/

/-- Settles O35: the stage's word if it is finite, else the graceful bypass. -/
theorem processedOutputIsFiniteOrBypass : Obligations.ProcessedOutputIsFiniteOrBypass := by
  unfold Obligations.ProcessedOutputIsFiniteOrBypass
  intro P x s he hw
  rw [sampleStep_eq]
  obtain ⟨he', -⟩ | ⟨-, hw', -⟩ | ⟨-, -, hfin, h⟩ | ⟨-, -, -, h⟩ :=
    selectOutput_cases P x s.warm s.idx (drainedCell P x s) (beforeSelect P x s)
  · rw [beforeSelect_cfg, he] at he'
    cases he'
  · omega
  · rw [h]
    exact .inl hfin
  · rw [h]
    refine .inr ⟨rfl, ?_⟩
    show ((beforeSelect P x s).err ||| errBit .stateGuard).getLsbD 7 = true
    rw [BitVec.getLsbD_or, show (errBit .stateGuard).getLsbD 7 = true from rfl, Bool.or_true]

/-! ## The output ring (R106, R128) -/

theorem outRead_outWrite_same {P : Params} {s : State} {i j : Nat} (v : F64) (hn : 0 < P.n)
    (hlen : s.mem.outRing.length = 2 * P.n) (h : j % (2 * P.n) = i % (2 * P.n)) :
    outRead P (outWrite P i v s) j = v := by
  rw [outRead, h]
  exact getD_set_same _ _ (by rw [hlen]; exact Nat.mod_lt _ (by omega))

theorem outRead_outWrite_other {P : Params} {s : State} {i j : Nat} (v : F64) (h : j % (2 * P.n) ≠ i % (2 * P.n)) :
    outRead P (outWrite P i v s) j = outRead P s j := getD_set_other _ _ h.symm

/-- The first rounds of an overlap-add. -/
def overlapAddFirst (P : Params) (base : Nat) (z : Spectrum) (s : State) (m : Nat) : State :=
  (List.range m).foldl (overlapAddAt P base z) s

section
variable {P : Params} {base : Nat} {z : Spectrum} {s : State} {m : Nat}

theorem overlapAddFirst_succ : overlapAddFirst P base z s (m + 1)
    = outWrite P (base + m) (F64.add (outRead P (overlapAddFirst P base z s m) (base + m))
        (F64.mul (elem z.re m) (olaScale P))) (overlapAddFirst P base z s m) := by
  unfold overlapAddFirst
  rw [List.range_succ, List.foldl_append]
  rfl

theorem overlapAddFirst_length (m : Nat) :
    (overlapAddFirst P base z s m).mem.outRing.length = s.mem.outRing.length := by
  induction m with
  | zero => rfl
  | succ m ih =>
    rw [overlapAddFirst_succ, outWrite_mem]
    exact List.length_set.trans ih

/-- A cell no round has reached is as it was. -/
theorem overlapAddFirst_other {j : Nat} (h : ∀ i < m, j % (2 * P.n) ≠ (base + i) % (2 * P.n)) :
    outRead P (overlapAddFirst P base z s m) j = outRead P s j := by
  induction m with
  | zero => rfl
  | succ m ih =>
    rw [overlapAddFirst_succ, outRead_outWrite_other _ (h m (Nat.lt_succ_self m))]
    exact ih fun i hi => h i (Nat.lt_succ_of_lt hi)

/-- The rounds of an overlap-add reach distinct cells, so each cell takes its own addend once. -/
theorem overlapAddFirst_cell (hn : 0 < P.n) (hlen : s.mem.outRing.length = 2 * P.n) (hm : m ≤ P.n) {i : Nat}
    (hi : i < m) :
    outRead P (overlapAddFirst P base z s m) (base + i)
      = F64.add (outRead P s (base + i)) (F64.mul (elem z.re i) (olaScale P)) := by
  have hdistinct {a b : Nat} (hab : a < b) (hb : b < P.n) : (base + b) % (2 * P.n) ≠ (base + a) % (2 * P.n) := by
    have := ring_place_ne (m := 2 * P.n) (i := base + a) (k := b - a) (by omega) (by omega)
    rwa [Nat.add_assoc, Nat.add_sub_cancel' hab.le] at this
  induction m with
  | zero => cases hi
  | succ m ih =>
    rw [overlapAddFirst_succ]
    obtain hlast | hbefore := Nat.eq_or_lt_of_le (Nat.le_of_lt_succ hi)
    · subst hlast
      rw [outRead_outWrite_same _ hn (by rw [overlapAddFirst_length, hlen]) rfl,
        overlapAddFirst_other fun a ha => hdistinct ha hm]
    · rw [outRead_outWrite_other _ (hdistinct hbefore hm).symm]
      exact ih (Nat.le_of_succ_le hm) hbefore

end

theorem sampleInput_wf {P : Params} (x : Word) {s : State} (h : Memory.wf P s.mem) :
    Memory.wf P (sampleInput P x s).mem := by
  have hadvance : Memory.wf P (advanceScheduler P (inWrite P s.idx x s)).mem := by
    rw [advanceScheduler_mem]
    exact inWrite_wf _ _ h
  unfold sampleInput
  dsimp only
  split
  · exact frame_wf _ _ hadvance
  · exact hadvance

/-- Settles O37: the rounds of the overlap-add one by one; the drain of the cell a sample step read. -/
theorem outputRingIsAccumulatedAndDrained : Obligations.OutputRingIsAccumulatedAndDrained := by
  unfold Obligations.OutputRingIsAccumulatedAndDrained
  refine ⟨fun P base z s hn hlen => ⟨fun i hi => overlapAddFirst_cell hn hlen le_rfl hi,
    fun j hj => overlapAddFirst_other hj⟩, fun P x s hwf hn => ?_⟩
  obtain ⟨-, hlen, -⟩ := sampleInput_wf x hwf
  have hkeep : (sampleStep P x s).1.mem = (beforeSelect P x s).mem := selectOutput_mem P x s.warm s.idx _ _
  rw [outRead, hkeep]
  exact outRead_outWrite_same (s := gateMultStep P (sampleInput P x s)) _ hn hlen rfl

/-! ## The samples of a frame (R122) -/

/-- A sanitised sample is finite: the word's own value if that is, else +0.0. -/
theorem sanitised_spec (w : Word) :
    (sanitised w).isFinite = true ∧ ((f64 w).isFinite = true → sanitised w = f64 w)
      ∧ ((f64 w).isFinite = false → sanitised w = F64.zero) := by
  unfold sanitised
  cases h : (f64 w).isFinite with
  | false => exact ⟨show F64.zero.isFinite = true by decide, fun hf => Bool.noConfusion hf, fun _ => rfl⟩
  | true => exact ⟨h, fun _ => rfl, fun hf => Bool.noConfusion hf⟩

theorem frameHasNonfinite_iff (P : Params) (start : Nat) (s : State) :
    frameHasNonfinite P start s = true ↔ ∃ i < P.n, (f64 (inRead P s (start + i))).isFinite = false := by
  simp [frameHasNonfinite]

/-- Of the two errors a frame's analysis can set, only `NONFINITE_IN` is bit 6. -/
theorem frameAnalysis_err_bit6 (P : Params) (start : Nat) (s : State) (h : s.err.getLsbD 6 = false) :
    (frameAnalysis P start s).2.2.err.getLsbD 6 = frameHasNonfinite P start s := by
  have hin : (seterrIf (frameHasNonfinite P start s) .nonfiniteIn s).err.getLsbD 6 = frameHasNonfinite P start s := by
    cases frameHasNonfinite P start s with
    | false => exact h
    | true =>
      show (s.err ||| errBit .nonfiniteIn).getLsbD 6 = true
      rw [BitVec.getLsbD_or, show (errBit .nonfiniteIn).getLsbD 6 = true from rfl, Bool.or_true]
  have hguard (e : Word) : (e ||| errBit .stateGuard).getLsbD 6 = e.getLsbD 6 := by
    rw [BitVec.getLsbD_or, show (errBit .stateGuard).getLsbD 6 = false from rfl, Bool.or_false]
  unfold frameAnalysis
  dsimp only
  obtain he | he := noiseUpdate_err (P := P) (powerSpectrum P (fft P false (extractAndWindow P start s)))
    (s := vadUpdate P (powerSpectrum P (fft P false (extractAndWindow P start s)))
      (seterrIf (frameHasNonfinite P start s) .nonfiniteIn s)) <;> rw [he]
  · exact hin
  · exact (hguard _).trans hin

/-- Settles O41. -/
theorem nonfiniteSamplesEnterAsZero : Obligations.NonfiniteSamplesEnterAsZero := by
  unfold Obligations.NonfiniteSamplesEnterAsZero
  intro P start s
  refine ⟨fun i hi => ?_, fun hclear => ?_⟩
  · obtain ⟨hfin, hself, hzero⟩ := sanitised_spec (inRead P s (start + i))
    exact ⟨_, hfin, elem_perBin _ hi, hself, hzero⟩
  · rw [frameAnalysis_err_bit6 P start s hclear, frameHasNonfinite_iff]

end Sys2Proof.Machine
end

section
/-! PROOFS of the statements about the estimator and the equalizer (43_noise_estimator.md, 45_artifact_smoother.md,
46_equalizer.md): the bands (R201, R202), a legacy frame (R152 to R154), an advanced frame (R157, R158), the minimum of
the minima (R159), and what a block keeps (R150, R192). -/

namespace Sys2Proof.Machine

/-! ## The equalizer's bands (R201, R202) -/

/-- A bin in no band takes no factor. -/
theorem eqt_neutral {P : Params} {p : Profile} {k : Nat} (h : ∀ b ∈ P.eqBands p, k < b.lo ∨ b.hi < k) :
    eqt P p k = F64.one := by
  unfold eqt
  generalize P.eqBands p = bands at h ⊢
  induction bands with
  | nil => rfl
  | cons b bands ih =>
    rw [List.forall_mem_cons] at h
    obtain ⟨hb, hbands⟩ := h
    rw [List.foldl_cons, if_neg (by omega)]
    exact ih hbands

/-- Settles O43. -/
theorem equalizerBandsAndNeutralBins : Obligations.EqualizerBandsAndNeutralBins := by
  unfold Obligations.EqualizerBandsAndNeutralBins
  exact ⟨by decide +kernel, by decide +kernel, fun P p k h => eqt_neutral h⟩

/-! ## A legacy frame (R152 to R154) -/

theorem elem_map {l : List F64} {k : Nat} (f : F64 → F64) (h : k < l.length) : elem (l.map f) k = f (elem l k) := by
  simp [elem, h]

/-- A smoothed power is the guarded recurrence of its bin. -/
theorem elem_guarded {P : Params} {k : Nat} (raw : Nat → F64) (hk : k < P.nb) :
    elem ((perBin P.nb raw).map (guardValue P)) k = guardValue P (raw k) := by
  rw [elem_map _ (by rwa [perBin_length]), elem_perBin _ hk]

/-- The counter reaches 0 from 499 only. -/
theorem frameCnt_wraps_iff (n : Nat) : (n + 1) % 500 = 0 ↔ n % 500 = 499 := by omega

/-- Settles O44: the three arrays a legacy frame leaves, at one bin. -/
theorem legacyMinimumOfABin : Obligations.LegacyMinimumOfABin := by
  unfold Obligations.LegacyMinimumOfABin
  intro P pw s k hlegacy hk
  have hmem := noiseUpdate_legacy_mem (P := P) pw hlegacy
  have hlmin : elem (legacyLmin P pw s) k = legacyMin ((s.frameCnt + 1) % 500) (elem (legacySig P pw s) k)
      (elem s.mem.lmin k) := elem_perBin _ hk
  dsimp only
  rw [hmem]
  refine ⟨noiseUpdate_frameCnt pw, elem_guarded _ hk, hlmin.trans ?_, elem_perBin _ hk⟩
  unfold legacyMin
  simp only [frameCnt_wraps_iff]

/-! ## An advanced frame (R157, R158) -/

theorem f64_min_not_above {a b : F64} :
    F64.lt a (F64.min a b) = false ∧ F64.lt b (F64.min a b) = false := by
  obtain ⟨hlt, h⟩ | ⟨hge, h⟩ := F64.min_cases a b <;> rw [h]
  · exact ⟨f64_lt_asymm hlt, F64.lt_self b⟩
  · exact ⟨F64.lt_self a, hge⟩

/-- Row `d` after one row is replaced. -/
theorem subminAt_set_same {rows : List (List F64)} {d : Nat} (row : List F64) (k : Nat) (h : d < rows.length) :
    subminAt (rows.set d row) d k = elem row k := by
  rw [subminAt, getD_set_same _ _ h]

theorem subminAt_set_other {rows : List (List F64)} {d e : Nat} (row : List F64) (k : Nat) (h : e ≠ d) :
    subminAt (rows.set e row) d k = subminAt rows d k := by
  rw [subminAt, getD_set_other _ _ h]
  rfl

section
variable {P : Params} {pw : List F64} {s : State} {k : Nat}

theorem subminAt_tracked_active (sig : List F64) (hk : k < P.nb) (hptr : s.subPtr < s.mem.submin.length) :
    subminAt (trackMinima P s.subPtr sig s.mem.submin) s.subPtr k
      = F64.min (subminAt s.mem.submin s.subPtr k) (elem sig k) :=
  (subminAt_set_same _ k hptr).trans (elem_perBin _ hk)

theorem subminAt_tracked_other (sig : List F64) {d : Nat} (hd : d ≠ s.subPtr) :
    subminAt (trackMinima P s.subPtr sig s.mem.submin) d k = subminAt s.mem.submin d k :=
  subminAt_set_other _ k hd.symm

theorem advancedRows_of_open (h : s.subCnt + 1 ≠ P.v) :
    advancedRows P pw s = trackMinima P s.subPtr (advancedSig P pw s) s.mem.submin :=
  if_neg (by simpa [subwindowEnds] using h)

theorem advancedRows_of_end (h : s.subCnt + 1 = P.v) :
    advancedRows P pw s
      = (trackMinima P s.subPtr (advancedSig P pw s) s.mem.submin).set (nextPtr P s) (advancedSig P pw s) :=
  if_pos (by simpa [subwindowEnds] using h)

end

/-- Settles O45: the smoothed power of the bin, then the rows in a frame that does not end the subwindow and in one that
does. -/
theorem subwindowMinimaOfAFrame : Obligations.SubwindowMinimaOfAFrame := by
  unfold Obligations.SubwindowMinimaOfAFrame
  intro P pw s k hadvanced hk hptr hrows
  have hmem := noiseUpdate_advanced_mem (P := P) pw hadvanced
  have hptr' : s.subPtr < s.mem.submin.length := hrows.symm ▸ hptr
  dsimp only
  rw [hmem, noiseUpdate_advanced_subPtr pw hadvanced, noiseUpdate_advanced_subCnt pw hadvanced]
  refine ⟨noiseUpdate_frameCnt pw, elem_guarded _ hk, fun hopen => ?_, fun hend => ?_⟩
  · have hno : subwindowEnds P s = false := by simpa [subwindowEnds] using hopen
    dsimp only
    rw [advancedRows_of_open hopen, subminAt_tracked_active _ hk hptr']
    obtain ⟨hold, hnew⟩ := f64_min_not_above (a := subminAt s.mem.submin s.subPtr k) (b := elem (advancedSig P pw s) k)
    exact ⟨by simp [nextPtr, hno], by simp [nextCnt, hno], rfl, hold, hnew, fun d hd => subminAt_tracked_other _ hd⟩
  · have hyes : subwindowEnds P s = true := by simpa [subwindowEnds] using hend
    have hnext : nextPtr P s = (s.subPtr + 1) % P.d := by simp [nextPtr, hyes]
    have hlen : nextPtr P s < (trackMinima P s.subPtr (advancedSig P pw s) s.mem.submin).length := by
      rw [trackMinima, List.length_set, hrows]
      exact nextPtr_lt hptr
    dsimp only
    rw [advancedRows_of_end hend]
    refine ⟨hnext, by simp [nextCnt, hyes], subminAt_set_same _ k hlen, fun hne => ?_, fun d hd hd' => ?_⟩
    · rw [subminAt_set_other _ k hne.symm, subminAt_tracked_active _ hk hptr']
    · rw [subminAt_set_other _ k hd'.symm, subminAt_tracked_other _ hd]

/-! ## The minimum of the minima (R159) -/

/-- `x` is no NaN, is one of the values `f d` for `d < n`, and none of them is below it. -/
structure IsLeast (f : Nat → F64) (n : Nat) (x : F64) : Prop where
  num : x.isNaN = false
  mem : ∃ d < n, x = f d
  le : ∀ d < n, F64.lt (f d) x = false

/-- Taking in one more value keeps the least. -/
theorem IsLeast.succ {f : Nat → F64} {n : Nat} {x : F64} (h : IsLeast f n x) (hnum : (f n).isNaN = false)
    (hall : ∀ d < n, (f d).isNaN = false) : IsLeast f (n + 1) (F64.min x (f n)) := by
  obtain ⟨hx, ⟨d, hd, hxd⟩, hle⟩ := h
  obtain ⟨hlt, hmin⟩ | ⟨hge, hmin⟩ := F64.min_cases x (f n) <;> rw [hmin]
  · refine ⟨hnum, ⟨n, Nat.lt_succ_self n, rfl⟩, fun e he => ?_⟩
    obtain rfl | he := Nat.eq_or_lt_of_le (Nat.le_of_lt_succ he)
    · exact F64.lt_self _
    · have hex := hle e he
      rw [F64.lt_eq_rank (hall e he) hx, decide_eq_false_iff_not] at hex
      rw [F64.lt_eq_rank hnum hx, decide_eq_true_eq] at hlt
      rw [F64.lt_eq_rank (hall e he) hnum]
      exact decide_eq_false (by omega)
  · refine ⟨hx, ⟨d, Nat.lt_succ_of_lt hd, hxd⟩, fun e he => ?_⟩
    obtain rfl | he := Nat.eq_or_lt_of_le (Nat.le_of_lt_succ he)
    · exact hge
    · exact hle e he

/-- The fold over the values from 1 on, started at the value 0, gives the least of all. -/
theorem isLeast_foldl {f : Nat → F64} {m : Nat} (hall : ∀ d < m + 1, (f d).isNaN = false) :
    IsLeast f (m + 1) ((List.range' 1 m).foldl (fun x d => F64.min x (f d)) (f 0)) := by
  induction m with
  | zero =>
    refine ⟨hall 0 Nat.one_pos, ⟨0, Nat.one_pos, rfl⟩, fun d hd => ?_⟩
    obtain rfl := Nat.lt_one_iff.1 hd
    exact F64.lt_self _
  | succ m ih =>
    rw [List.range'_1_concat, List.foldl_append, Nat.add_comm 1 m]
    exact (ih fun d hd => hall d (by omega)).succ (hall (m + 1) (by omega)) fun d hd => hall d (by omega)

/-- Settles O46: the fold gives the least of the minima, and the noise estimate of a bin reads it. -/
theorem minimumOfMinimaIsTheLeast : Obligations.MinimumOfMinimaIsTheLeast := by
  unfold Obligations.MinimumOfMinimaIsTheLeast
  refine ⟨fun P rows k hd hall => ?_, fun P pw s k hadvanced hk => ?_⟩
  · have hsucc : P.d - 1 + 1 = P.d := Nat.sub_add_cancel hd
    have hleast := isLeast_foldl (f := fun d => subminAt rows d k) (m := P.d - 1) (by rwa [hsucc])
    rw [hsucc] at hleast
    exact ⟨hleast.mem, hleast.le⟩
  · dsimp only
    rw [noiseUpdate_advanced_mem pw hadvanced]
    exact elem_perBin _ hk

/-! ## What a block keeps (R150, R192) -/

/-- The legacy method is selected, and the subwindows are those of `s`. -/
theorem legacy_keeps_subwindows (P : Params) (s : State) :
    EngineInvariant P (fun t => t.cfg.neMethod = .legacy
      ∧ t.mem.submin = s.mem.submin ∧ t.subPtr = s.subPtr ∧ t.subCnt = s.subCnt) where
  same hst h := by rwa [hst.cfg, hst.submin, hst.subPtr, hst.subCnt]
  seterr _ h := h
  noise {t} pw h := by
    obtain ⟨hm, hrows, hptr, hcnt⟩ := h
    have hmem := noiseUpdate_legacy_mem (P := P) pw hm
    refine ⟨?_, ?_, (noiseUpdate_legacy_subPtr pw hm).trans hptr, (noiseUpdate_legacy_subCnt pw hm).trans hcnt⟩
    · rwa [(noiseUpdate_frame P pw t).cfg]
    · rwa [hmem]
  smoother _ _ h := h

/-- The advanced method is selected, and the legacy minima are those of `s`. -/
theorem advanced_keeps_lmin (P : Params) (s : State) :
    EngineInvariant P (fun t => t.cfg.neMethod = .advanced ∧ t.mem.lmin = s.mem.lmin) where
  same hst h := by rwa [hst.cfg, hst.lmin]
  seterr _ h := h
  noise {t} pw h := by
    obtain ⟨hm, hlmin⟩ := h
    have hmem := noiseUpdate_advanced_mem (P := P) pw hm
    refine ⟨?_, ?_⟩
    · rwa [(noiseUpdate_frame P pw t).cfg]
    · rwa [hmem]
  smoother _ _ h := h

/-- The noise update leaves the running gains. -/
theorem noiseUpdate_fsg (P : Params) (pw : List F64) (s : State) : (noiseUpdate P pw s).mem.fsg = s.mem.fsg := by
  cases hm : s.cfg.neMethod with
  | legacy => rw [noiseUpdate_legacy_mem pw hm]
  | advanced => rw [noiseUpdate_advanced_mem pw hm]

/-- The smoother is off, and the running gains are those of `s`. -/
theorem smoother_off_keeps_fsg (P : Params) (s : State) :
    EngineInvariant P (fun t => t.cfg.smoother = false ∧ t.mem.fsg = s.mem.fsg) where
  same hst h := by rwa [hst.cfg, hst.fsg]
  seterr _ h := h
  noise {t} pw h := by rwa [(noiseUpdate_frame P pw t).cfg, noiseUpdate_fsg]
  smoother _ hon h := absurd (h.1.symm.trans hon) Bool.false_ne_true

/-- Settles O47: three invariants of the engine. -/
theorem unselectedStateIsFrozen : Obligations.UnselectedStateIsFrozen := by
  unfold Obligations.UnselectedStateIsFrozen
  intro P s
  exact ⟨fun h => ((legacy_keeps_subwindows P s).block ⟨h, rfl, rfl, rfl⟩).2,
    fun h => ((advanced_keeps_lmin P s).block ⟨h, rfl⟩).2, fun h => ((smoother_off_keeps_fsg P s).block ⟨h, rfl⟩).2⟩

end Sys2Proof.Machine
end
